-- ==== Sys2Proof/Word.lean ====
section
/-! DEFINITION. The bit-vector types of the mOS core block (00_scope.md R8, R11): command and result words are 32
bits, the DATA/D field is 16 bits, wire bytes and the A field are 8 bits. Bit 0 is the least significant bit. -/

namespace Sys2Proof

/-- A command word or a result word (R100, R108). -/
abbrev Word := BitVec 32

/-- A 16-bit operand, element, CSR value or result datum (R100, R107). -/
abbrev Half := BitVec 16

/-- A wire byte, a port ID, a handle, a CSR number (R100, R107). -/
abbrev Byte := BitVec 8

end Sys2Proof
end

