-- ==== Sys2Proof/Syntax.lean ====
section
/-! DEFINITION. The 21 commands of spec/opcode_table.json (30_encoding.md R102), one constructor a row. Every operand
has exactly the width of its field (R100, R103, R107), so a must-be-zero bit cannot be set in a term. -/

namespace Sys2Proof

/-- A command word that selects a row of the opcode table, with that row's operands (R102, R107). -/
inductive Instr where
  | rbPush (k : BitVec 8) (d : BitVec 16)
  | rbPop (k : BitVec 8)
  | rbLen (k : BitVec 8)
  | fvRx (b : BitVec 8)
  | fvTx
  | fvXfer
  | svcReg (a n : BitVec 8)
  | svcDel (a : BitVec 8)
  | svcIsreg (a : BitVec 8)
  | svcPlen (a : BitVec 8)
  | svcNext
  | svcRdparam (a j : BitVec 8)
  | svcDone (a v : BitVec 8)
  | svcResp (a : BitVec 8)
  | schAdd (d p : BitVec 12)
  | schDel (h : BitVec 8)
  | schNext
  | schDone (h : BitVec 8)
  | schRdslot (h : BitVec 8) (sel : BitVec 2)
  | csrRead (n : BitVec 8)
  | csrWrite (n : BitVec 8) (v : BitVec 16)
  deriving DecidableEq, Repr

end Sys2Proof
end

