-- ==== Sys2Proof/Decode.lean ====
section
/-! DEFINITION. Decoding and encoding of command words (30_encoding.md R100 to R107): formats R and S, the opcode map,
the must-be-zero fields. Decoding is total; a word that selects no row is rejected by name. -/

namespace Sys2Proof

/-- Why a word selects no row of the opcode table (R101, R102, R103). -/
inductive DecodeError where
  /-- UNIT is 0x5 to 0xF (R101). -/
  | reservedUnit (unit : Nat)
  /-- The (UNIT, OP) pair is in no row (R102). -/
  | reservedOp (unit op : Nat)
  /-- A field its row marks `0` holds a 1 (R103). -/
  | mustBeZero (unit op : Nat)
  deriving DecidableEq, Repr

/-- UNIT = w[31:28] (R100). -/
def unitOf (w : Word) : BitVec 4 := w.extractLsb' 28 4

/-- OP = w[27:24] (R100). -/
def opOf (w : Word) : BitVec 4 := w.extractLsb' 24 4

/-- A = w[23:16] (R100). -/
def aOf (w : Word) : BitVec 8 := w.extractLsb' 16 8

/-- D = w[15:0] (R100). -/
def dOf (w : Word) : BitVec 16 := w.extractLsb' 0 16

/-- DELAY = w[23:12] of format S (R100). -/
def delayOf (w : Word) : BitVec 12 := w.extractLsb' 12 12

/-- PERIOD = w[11:0] of format S (R100). -/
def periodOf (w : Word) : BitVec 12 := w.extractLsb' 0 12

/-- The command, if the row's must-be-zero bits are all 0 (R103). -/
def ifZero (clear : Bool) (unit op : Nat) (i : Instr) : Except DecodeError Instr :=
  if clear then .ok i else .error (.mustBeZero unit op)

/-- Rows of unit 0x0, RB (R102). -/
def decodeRb (op : Nat) (a : BitVec 8) (d : BitVec 16) : Except DecodeError Instr :=
  match op with
  | 0 => .ok (.rbPush a d)
  | 1 => ifZero (d == 0#16) 0 1 (.rbPop a)
  | 2 => ifZero (d == 0#16) 0 2 (.rbLen a)
  | _ => .error (.reservedOp 0 op)

/-- Rows of unit 0x1, FV (R102). -/
def decodeFv (op : Nat) (a : BitVec 8) (d : BitVec 16) : Except DecodeError Instr :=
  match op with
  | 0 => ifZero (a == 0#8 && d.extractLsb' 8 8 == 0#8) 1 0 (.fvRx (d.extractLsb' 0 8))
  | 1 => ifZero (a == 0#8 && d == 0#16) 1 1 .fvTx
  | 2 => ifZero (a == 0#8 && d == 0#16) 1 2 .fvXfer
  | _ => .error (.reservedOp 1 op)

/-- Rows of unit 0x2, SVC (R102). -/
def decodeSvc (op : Nat) (a : BitVec 8) (d : BitVec 16) : Except DecodeError Instr :=
  match op with
  | 0 => ifZero (d.extractLsb' 8 8 == 0#8) 2 0 (.svcReg a (d.extractLsb' 0 8))
  | 1 => ifZero (d == 0#16) 2 1 (.svcDel a)
  | 2 => ifZero (d == 0#16) 2 2 (.svcIsreg a)
  | 3 => ifZero (d == 0#16) 2 3 (.svcPlen a)
  | 4 => ifZero (a == 0#8 && d == 0#16) 2 4 .svcNext
  | 5 => ifZero (d.extractLsb' 8 8 == 0#8) 2 5 (.svcRdparam a (d.extractLsb' 0 8))
  | 6 => ifZero (d.extractLsb' 8 8 == 0#8) 2 6 (.svcDone a (d.extractLsb' 0 8))
  | 7 => ifZero (d == 0#16) 2 7 (.svcResp a)
  | _ => .error (.reservedOp 2 op)

/-- Rows of unit 0x3, SCH (R102); row 0 is format S (R100). -/
def decodeSch (op : Nat) (w : Word) : Except DecodeError Instr :=
  match op with
  | 0 => .ok (.schAdd (delayOf w) (periodOf w))
  | 1 => ifZero (dOf w == 0#16) 3 1 (.schDel (aOf w))
  | 2 => ifZero (aOf w == 0#8 && dOf w == 0#16) 3 2 .schNext
  | 3 => ifZero (dOf w == 0#16) 3 3 (.schDone (aOf w))
  | 4 => ifZero ((dOf w).extractLsb' 2 14 == 0#14) 3 4 (.schRdslot (aOf w) ((dOf w).extractLsb' 0 2))
  | _ => .error (.reservedOp 3 op)

/-- Rows of unit 0x4, CSR (R102). -/
def decodeCsr (op : Nat) (a : BitVec 8) (d : BitVec 16) : Except DecodeError Instr :=
  match op with
  | 0 => ifZero (d == 0#16) 4 0 (.csrRead a)
  | 1 => .ok (.csrWrite a d)
  | _ => .error (.reservedOp 4 op)

/-- The row a command word selects, with its operands, or why it selects none (R103, R104, R106). -/
def decode (w : Word) : Except DecodeError Instr :=
  match (unitOf w).toNat with
  | 0 => decodeRb (opOf w).toNat (aOf w) (dOf w)
  | 1 => decodeFv (opOf w).toNat (aOf w) (dOf w)
  | 2 => decodeSvc (opOf w).toNat (aOf w) (dOf w)
  | 3 => decodeSch (opOf w).toNat w
  | 4 => decodeCsr (opOf w).toNat (aOf w) (dOf w)
  | u => .error (.reservedUnit u)

/-- A word of format R (R100). -/
def wordR (unit op : BitVec 4) (a : BitVec 8) (d : BitVec 16) : Word := unit ++ op ++ a ++ d

/-- A word of format S (R100). -/
def wordS (unit op : BitVec 4) (delay period : BitVec 12) : Word := unit ++ op ++ delay ++ period

/-- The command word of a command (R100, R102), every must-be-zero bit 0. -/
def encode : Instr → Word
  | .rbPush k d => wordR 0x0#4 0x0#4 k d
  | .rbPop k => wordR 0x0#4 0x1#4 k 0#16
  | .rbLen k => wordR 0x0#4 0x2#4 k 0#16
  | .fvRx b => wordR 0x1#4 0x0#4 0#8 (0#8 ++ b)
  | .fvTx => wordR 0x1#4 0x1#4 0#8 0#16
  | .fvXfer => wordR 0x1#4 0x2#4 0#8 0#16
  | .svcReg a n => wordR 0x2#4 0x0#4 a (0#8 ++ n)
  | .svcDel a => wordR 0x2#4 0x1#4 a 0#16
  | .svcIsreg a => wordR 0x2#4 0x2#4 a 0#16
  | .svcPlen a => wordR 0x2#4 0x3#4 a 0#16
  | .svcNext => wordR 0x2#4 0x4#4 0#8 0#16
  | .svcRdparam a j => wordR 0x2#4 0x5#4 a (0#8 ++ j)
  | .svcDone a v => wordR 0x2#4 0x6#4 a (0#8 ++ v)
  | .svcResp a => wordR 0x2#4 0x7#4 a 0#16
  | .schAdd d p => wordS 0x3#4 0x0#4 d p
  | .schDel h => wordR 0x3#4 0x1#4 h 0#16
  | .schNext => wordR 0x3#4 0x2#4 0#8 0#16
  | .schDone h => wordR 0x3#4 0x3#4 h 0#16
  | .schRdslot h sel => wordR 0x3#4 0x4#4 h (0#14 ++ sel)
  | .csrRead n => wordR 0x4#4 0x0#4 n 0#16
  | .csrWrite n v => wordR 0x4#4 0x1#4 n v

/-- A row of spec/opcode_table.json: a word selects it iff `w AND mask == value` (R103). -/
structure Row where
  mnemonic : String
  value : Word
  mask : Word
  deriving DecidableEq, Repr

/-- The rows of spec/opcode_table.json, in its order. -/
def opcodeRows : List Row :=
  [⟨"RB_PUSH", 0x00000000#32, 0xFF000000#32⟩, ⟨"RB_POP", 0x01000000#32, 0xFF00FFFF#32⟩,
    ⟨"RB_LEN", 0x02000000#32, 0xFF00FFFF#32⟩, ⟨"FV_RX", 0x10000000#32, 0xFFFFFF00#32⟩,
    ⟨"FV_TX", 0x11000000#32, 0xFFFFFFFF#32⟩, ⟨"FV_XFER", 0x12000000#32, 0xFFFFFFFF#32⟩,
    ⟨"SVC_REG", 0x20000000#32, 0xFF00FF00#32⟩, ⟨"SVC_DEL", 0x21000000#32, 0xFF00FFFF#32⟩,
    ⟨"SVC_ISREG", 0x22000000#32, 0xFF00FFFF#32⟩, ⟨"SVC_PLEN", 0x23000000#32, 0xFF00FFFF#32⟩] ++
  [⟨"SVC_NEXT", 0x24000000#32, 0xFFFFFFFF#32⟩, ⟨"SVC_RDPARAM", 0x25000000#32, 0xFF00FF00#32⟩,
    ⟨"SVC_DONE", 0x26000000#32, 0xFF00FF00#32⟩, ⟨"SVC_RESP", 0x27000000#32, 0xFF00FFFF#32⟩,
    ⟨"SCH_ADD", 0x30000000#32, 0xFF000000#32⟩, ⟨"SCH_DEL", 0x31000000#32, 0xFF00FFFF#32⟩,
    ⟨"SCH_NEXT", 0x32000000#32, 0xFFFFFFFF#32⟩, ⟨"SCH_DONE", 0x33000000#32, 0xFF00FFFF#32⟩,
    ⟨"SCH_RDSLOT", 0x34000000#32, 0xFF00FFFC#32⟩, ⟨"CSR_READ", 0x40000000#32, 0xFF00FFFF#32⟩,
    ⟨"CSR_WRITE", 0x41000000#32, 0xFF000000#32⟩]

/-- The word selects the row (R103, R106). -/
def Row.selects (r : Row) (w : Word) : Bool := w &&& r.mask == r.value

/-- The row a command belongs to, by its mnemonic in the table (R102). -/
def mnemonicOf : Instr → String
  | .rbPush _ _ => "RB_PUSH"
  | .rbPop _ => "RB_POP"
  | .rbLen _ => "RB_LEN"
  | .fvRx _ => "FV_RX"
  | .fvTx => "FV_TX"
  | .fvXfer => "FV_XFER"
  | .svcReg _ _ => "SVC_REG"
  | .svcDel _ => "SVC_DEL"
  | .svcIsreg _ => "SVC_ISREG"
  | .svcPlen _ => "SVC_PLEN"
  | .svcNext => "SVC_NEXT"
  | .svcRdparam _ _ => "SVC_RDPARAM"
  | .svcDone _ _ => "SVC_DONE"
  | .svcResp _ => "SVC_RESP"
  | .schAdd _ _ => "SCH_ADD"
  | .schDel _ => "SCH_DEL"
  | .schNext => "SCH_NEXT"
  | .schDone _ => "SCH_DONE"
  | .schRdslot _ _ => "SCH_RDSLOT"
  | .csrRead _ => "CSR_READ"
  | .csrWrite _ _ => "CSR_WRITE"

/-- The command word whose low `nbits` bits are those of `w` and whose other bits are 0. -/
def tableWord (nbits w : Nat) : Word := BitVec.ofNat 32 (w % 2 ^ nbits)

/-- What the decoder reads from an instruction whose bits, numbered as the opcode table numbers them, are `w`; a
command is one 32-bit word (R100). -/
def decodeTableWord (nbits w : Nat) : Option Instr := (decode (tableWord nbits w)).toOption

end Sys2Proof
end

