-- ==== Sys2Proof/Config.lean ====
section
/-! DEFINITION. The configuration record of the block (00_scope.md R7, R8), the reference configuration REF (R9), and
the free values: what the spec leaves unspecified and no proof may see. -/

namespace Sys2Proof

/-- `WIDTH[k]`: the element width of a ring, 8 or 16 bits (R7). No other width can be written down (R138). -/
inductive ElemWidth where
  | w8
  | w16
  deriving DecidableEq, Repr

/-- `CLOCKING[k]`: how a ring's cursors reach the other side (R7, R34). -/
inductive Clocking where
  | sync
  | async
  deriving DecidableEq, Repr

/-- The configuration of one ring-buffer instance (R7): `AW[k]`, `WIDTH[k]`, `CLOCKING[k]`. -/
structure RingCfg where
  aw : Nat
  width : ElemWidth
  clocking : Clocking
  deriving DecidableEq, Repr

/-- `CAP = 2^AW` (R32, R130). -/
def RingCfg.cap (c : RingCfg) : Nat := 2 ^ c.aw

/-- `M = 2^PW` with `PW = AW + 1` (R8, R32, R130). -/
def RingCfg.modulus (c : RingCfg) : Nat := 2 ^ (c.aw + 1)

/-- The nine wire status codes (R7, R221). -/
structure WireCodes where
  ok : Byte
  busy : Byte
  headerErr : Byte
  sizeErr : Byte
  paramErr : Byte
  portErr : Byte
  serviceErr : Byte
  checksumErr : Byte
  unknown : Byte
  deriving DecidableEq, Repr

/-- The nine codes in the order of R7. -/
def WireCodes.toList (w : WireCodes) : List Byte :=
  [w.ok, w.busy, w.headerErr, w.sizeErr, w.paramErr, w.portErr, w.serviceErr, w.checksumErr, w.unknown]

/-- `Cfg`, fixed when the block is built (R7, R44). `RB_COUNT` is the length of `rings`; `BLOCK_BASE` is the OPEN
platform parameter of the bus binding (R76). -/
structure Cfg where
  rings : List RingCfg
  hasSched : Bool
  nslots : Nat
  hasTimer : Bool
  portBase : Byte
  portCount : Nat
  maxLen : Byte
  svcHeader : Byte
  statusHeader : Byte
  ws : WireCodes
  blockBase : Nat
  deriving DecidableEq, Repr

/-- `RB_COUNT` (R7). -/
def Cfg.rbCount (c : Cfg) : Nat := c.rings.length

/-- The configuration of ring `k`; every use has checked `k < RB_COUNT` first. -/
def Cfg.ring (c : Cfg) (k : Nat) : RingCfg := c.rings.getD k ⟨0, .w8, .sync⟩

/-- How many task slots exist: `NSLOTS`, or none when the scheduler is absent (R38, R150). -/
def Cfg.slotCount (c : Cfg) : Nat := if c.hasSched then c.nslots else 0

/-- How many command ports exist: HOST, TRANSPORT and two per ring (R30, R76). -/
def Cfg.cmdPorts (c : Cfg) : Nat := 2 + 2 * c.rbCount

/-- The wire status codes of REF (R9). -/
def WireCodes.ref : WireCodes :=
  ⟨0x00#8, 0x01#8, 0x02#8, 0x03#8, 0x04#8, 0x05#8, 0x06#8, 0x07#8, 0xFF#8⟩

/-- The reference configuration REF (R9). DESIGN CHOICE (log 2): `BLOCK_BASE` is OPEN in REF; 0 here. -/
def Cfg.ref : Cfg where
  rings := [⟨3, .w8, .sync⟩]
  hasSched := true
  nslots := 4
  hasTimer := true
  portBase := 0x10#8
  portCount := 4
  maxLen := 8#8
  svcHeader := 0xA5#8
  statusHeader := 0xA6#8
  ws := WireCodes.ref
  blockBase := 0

/-- FREE VALUE (log 4): what slot `slot` of ring `ring` holds when no push has written it since reset number `epoch`.
The spec leaves it unspecified (R32, R300; 93 I3 "any value"). -/
opaque Config.unwrittenSlot : (epoch ring slot : Nat) → BitVec 16

/-- FREE VALUE (log 4): what byte `i` of the frame buffer holds when no data byte has been stored there since reset
number `epoch` (R37, R300; 93 I3 "any value"). -/
opaque Config.unwrittenFbuf : (epoch i : Nat) → BitVec 8

end Sys2Proof
end

