-- ==== Sys2Proof/Machine/State.lean ====
section
/-! DEFINITION. The architectural state of the mOS core block (10_state.md R30 to R44) as plain data, the reasons a step
can stop, the result codes (R108), and the machine right after RESET (70_reset_and_hazards.md R300). -/

namespace Sys2Proof.Machine

/-- A command port, named by the agent that owns it (R10, R30, R76). -/
inductive Port where
  | host
  | transport
  | producer (k : Nat)
  | consumer (k : Nat)
  deriving DecidableEq, Repr

/-- One step of the outside world (R72): a command an agent writes to its CMD register, an access through the bus
binding (R74, R76), or an event (R109). -/
inductive Input where
  /-- The agent of port `p` writes `w` to its CMD register (R30, R106). -/
  | command (p : Port) (w : Word)
  /-- A bus write of `size` bytes at `addr`; `data` counts only for an aligned 32-bit write (R74, R76). -/
  | busWrite (addr size : Nat) (data : Word)
  /-- A bus read of `size` bytes at `addr` (R74, R76). -/
  | busRead (addr size : Nat)
  /-- One pulse of `tick_i`, of a block with a scheduler and no timer: one scheduler tick (R10, R109, R153, R161). -/
  | tick
  /-- One cycle of the tick timer (R109, R160). -/
  | tmrClk
  /-- The producer side of ASYNC ring `k` samples the tail cursor as `v` (R134). -/
  | syncP (k v : Nat)
  /-- The consumer side of ASYNC ring `k` samples the head cursor as `v` (R135). -/
  | syncC (k v : Nat)
  /-- The reset input (R300). -/
  | reset
  deriving DecidableEq, Repr

/-- What the block answered to the last bus access (R74, R76). -/
inductive BusResp where
  /-- No bus access since reset. -/
  | idle
  /-- The word a read returned. -/
  | data (w : Word)
  /-- A write was taken. -/
  | done
  /-- The platform's bus-error response: wrong width or misaligned (R74). -/
  | error
  deriving DecidableEq, Repr

/-- Result codes (R108). -/
inductive ResultCode where
  | ok
  | full
  | empty
  | tableFull
  | invalidHandle
  | invalidPort
  | invalidService
  | alreadyRegistered
  | invalidLen
  | invalidIndex
  | none
  | seqError
  | illegal
  deriving DecidableEq, Repr

/-- A sparse storage of `w`-bit cells: the cells written since reset, as (index, value) pairs with indexes strictly
rising. An index that is not listed holds an unspecified value (R32, R37, R71). -/
abbrev Store (w : Nat) := List (Nat × BitVec w)

/-- One ring-buffer instance (R32). Cursors are numbers below `M = 2^(AW+1)`; elements are kept zero-extended to 16
bits. -/
structure Ring where
  head : Nat
  tail : Nat
  tailP : Nat
  headC : Nat
  mem : Store 16
  deriving DecidableEq, Repr

/-- One service port (R36). `param` lists the `MAX_LEN - 1` parameter bytes. -/
structure SvcPort where
  reg : Bool
  plen : Byte
  pending : Bool
  resp : Byte
  param : List Byte
  deriving DecidableEq, Repr

/-- The parser states of FV (R37, R210). -/
inductive PState where
  | header
  | length
  | port
  | data
  | checksum
  | badFrame
  | portQuery
  | statusQuery
  deriving DecidableEq, Repr

/-- The frame validator's state (R37). -/
structure Fv where
  st : PState
  qport : BitVec 4
  len : Byte
  pidx : BitVec 4
  cnt : Byte
  crc : Byte
  fbuf : Store 8
  fstatus : Byte
  deriving DecidableEq, Repr

/-- One task slot (R38). -/
structure Slot where
  occ : Bool
  delay : BitVec 12
  period : BitVec 12
  run : BitVec 8
  deriving DecidableEq, Repr

/-- The scheduler (R38, R39). -/
structure Sched where
  slots : List Slot
  sp : BitVec 5
  inflight : Bool
  ifslot : BitVec 4
  deriving DecidableEq, Repr

/-- The tick timer (R40). -/
structure Timer where
  en : Bool
  reload : BitVec 16
  count : BitVec 16
  deriving DecidableEq, Repr

/-- The block's state. `rb` to `result` are the spec's (R30 to R40); `cfg` is the configuration, which no step changes
(R7, R44); `inbox`, `port`, `bus` and `epoch` are the MODEL's own (log 1, 3, 4, 5). -/
structure State where
  /-- The configuration record (R7); constant for the life of the block (R44). -/
  cfg : Cfg
  /-- `S.rb[k]`, one entry per ring (R32). -/
  rb : List Ring
  /-- `S.svc[i]`, one entry per service port (R36). -/
  svc : List SvcPort
  /-- `S.svc.ssp` (R36). -/
  ssp : BitVec 5
  /-- `S.fv` (R37). -/
  fv : Fv
  /-- `S.sch` (R38, R39). -/
  sch : Sched
  /-- `S.tmr` (R40). -/
  tmr : Timer
  /-- The RESULT register of every command port, by port number (R30, R76). -/
  result : List Word
  /-- The model's own: the steps of all agents still to come, in the one total order of R72. -/
  inbox : List Input
  /-- The model's own: the port on which the command being executed was issued (R106). -/
  port : Port
  /-- The model's own: the answer to the last bus access (R74, R76). -/
  bus : BusResp
  /-- The model's own: how many RESET events have happened; it selects the free values of unwritten storage. -/
  epoch : Nat
  deriving DecidableEq, Repr

/-- Why a step ends in a fault. -/
inductive Fault where
  /-- Raised by `step` for a bus access that touches no command-port window of the block: the block fixes no other
  address (R76). Safe: the access is not one to this block, and the model stops. -/
  | outsideTheBlock (addr : Nat)
  deriving DecidableEq, Repr

/-- Why a step is refused. -/
inductive Refusal where
  /-- Raised by an arm of `exec` whose instruction has no meaning yet; no arm is in that case. Safe: the model stops. -/
  | notModelled (mnemonic : String)
  /-- Raised by `step` when the configuration violates R7: no block exists for it (R7, R138). Safe: there is no
  hardware to differ from. -/
  | refusedConfiguration
  /-- Raised by `step` for a command of a port that does not exist (R30: PRODUCER(k) and CONSUMER(k) exist for
  `k < RB_COUNT`). Safe: no agent can issue it. -/
  | noSuchPort (p : Port)
  /-- Raised by `step` for an event that is not enabled (R134, R135), whose unit is absent (R150, R160), or for a TICK
  input of a block with a timer (R10, R153, R161). Safe: such an event does not occur. -/
  | eventNotEnabled (x : Input)
  deriving DecidableEq, Repr

/-- An outcome of this machine. -/
abbrev Out := Host.Outcome State Fault Refusal

/-- A ring after RESET (R32, R300): all cursors 0, nothing written. -/
def Ring.reset : Ring := ⟨0, 0, 0, 0, []⟩

/-- A service port after RESET (R36, R300). -/
def SvcPort.reset (c : Cfg) : SvcPort :=
  ⟨false, 0#8, false, c.ws.unknown, List.replicate (c.maxLen.toNat - 1) 0#8⟩

/-- The frame validator after RESET (R37, R300). -/
def Fv.reset (c : Cfg) : Fv := ⟨.header, 0#4, 0#8, 0#4, 0#8, 0xFF#8, [], c.ws.unknown⟩

/-- A task slot after RESET, and an empty slot (R38, R300). -/
def Slot.empty : Slot := ⟨false, 0#12, 0#12, 0#8⟩

/-- The scheduler after RESET (R38, R39, R300). -/
def Sched.reset (c : Cfg) : Sched := ⟨List.replicate c.slotCount Slot.empty, 0#5, false, 0#4⟩

/-- The tick timer after RESET: stopped (R40, R300). -/
def Timer.reset : Timer := ⟨false, 0#16, 0#16⟩

/-- The block of a configuration right after RESET (R300), with nothing to come in the inbox. -/
def State.resetOf (c : Cfg) : State where
  cfg := c
  rb := List.replicate c.rbCount Ring.reset
  svc := List.replicate c.portCount (SvcPort.reset c)
  ssp := 0#5
  fv := Fv.reset c
  sch := Sched.reset c
  tmr := Timer.reset
  result := List.replicate c.cmdPorts 0#32
  inbox := []
  port := .host
  bus := .idle
  epoch := 0

/-- The machine right after reset, in the reference configuration REF (R9, R300). DESIGN CHOICE (log 2): REF is one
legal configuration; the meanings and the statements are about every configuration. -/
def State.reset : State := State.resetOf Cfg.ref

/-- Replace `rb`. -/
def State.withRb (s : State) (v : List Ring) : State := { s with rb := v }

/-- Replace `svc`. -/
def State.withSvc (s : State) (v : List SvcPort) : State := { s with svc := v }

/-- Replace `ssp`. -/
def State.withSsp (s : State) (v : BitVec 5) : State := { s with ssp := v }

/-- Replace `fv`. -/
def State.withFv (s : State) (v : Fv) : State := { s with fv := v }

/-- Replace `sch`. -/
def State.withSch (s : State) (v : Sched) : State := { s with sch := v }

/-- Replace `tmr`. -/
def State.withTmr (s : State) (v : Timer) : State := { s with tmr := v }

/-- Replace `result`. -/
def State.withResult (s : State) (v : List Word) : State := { s with result := v }

/-- Replace `inbox`. -/
def State.withInbox (s : State) (v : List Input) : State := { s with inbox := v }

/-- Replace `port`. -/
def State.withPort (s : State) (v : Port) : State := { s with port := v }

/-- Replace `bus`. -/
def State.withBus (s : State) (v : BusResp) : State := { s with bus := v }

/-- Replace `epoch`. -/
def State.withEpoch (s : State) (v : Nat) : State := { s with epoch := v }

end Sys2Proof.Machine
end

