-- ==== Sys2Proof/WellFormed.lean ====
section
/-! DEFINITION. What a legal configuration is (00_scope.md R7): a configuration that fails one of these checks is
REFUSED, no block exists for it (R7, R138; 93 I1). And which commands a block of a configuration has at all
(30_encoding.md R105, 41_scheduler.md R150). -/

namespace Sys2Proof

/-- `RB_COUNT` is 1..16 and every `AW[k]` is 0..15 (R7, R138). -/
def Cfg.ringsOk (c : Cfg) : Bool :=
  decide (1 ≤ c.rbCount) && decide (c.rbCount ≤ 16) && c.rings.all (fun r => decide (r.aw ≤ 15))

/-- `NSLOTS` is 1..16 when `HAS_SCHED` = 1 (R7). -/
def Cfg.slotsOk (c : Cfg) : Bool := !c.hasSched || (decide (1 ≤ c.nslots) && decide (c.nslots ≤ 16))

/-- `HAS_TIMER` = 1 only if `HAS_SCHED` = 1 (R7). -/
def Cfg.timerOk (c : Cfg) : Bool := !c.hasTimer || c.hasSched

/-- `PORT_COUNT` is 1..16 and `PORT_BASE + PORT_COUNT <= 256` (R7). -/
def Cfg.portsOk (c : Cfg) : Bool :=
  decide (1 ≤ c.portCount) && decide (c.portCount ≤ 16) && decide (c.portBase.toNat + c.portCount ≤ 256)

/-- `MAX_LEN` is 1..255 (R7). -/
def Cfg.maxLenOk (c : Cfg) : Bool := decide (1 ≤ c.maxLen.toNat)

/-- A byte lies in `[PORT_BASE, PORT_BASE + PORT_COUNT)` (R7, R14). -/
def Cfg.isPortId (c : Cfg) (b : Byte) : Bool :=
  decide (c.portBase.toNat ≤ b.toNat) && decide (b.toNat < c.portBase.toNat + c.portCount)

/-- The two header values differ and neither is a port ID (R7). -/
def Cfg.headersOk (c : Cfg) : Bool :=
  decide (c.svcHeader ≠ c.statusHeader) && !c.isPortId c.svcHeader && !c.isPortId c.statusHeader

/-- The nine `WS_*` values are pairwise distinct (R7). -/
def Cfg.codesOk (c : Cfg) : Bool := decide c.ws.toList.Nodup

/-- `BLOCK_BASE` is 8-byte aligned (R76; 92 section 2). -/
def Cfg.baseOk (c : Cfg) : Bool := decide (c.blockBase % 8 = 0)

/-- Every constraint of R7: a block exists for the configuration. -/
def Cfg.wf (c : Cfg) : Bool :=
  c.ringsOk && c.slotsOk && c.timerOk && c.portsOk && c.maxLenOk && c.headersOk && c.codesOk && c.baseOk

/-- The command is one that some port of a block of this configuration may issue: an RB command names a ring that
exists, an SCH command needs the scheduler (R105, R150). Every other command always is. A command that is not is
answered RC_ILLEGAL on every port. -/
def Instr.wf (c : Cfg) : Instr → Bool
  | .rbPush k _ => decide (k.toNat < c.rbCount)
  | .rbPop k => decide (k.toNat < c.rbCount)
  | .rbLen k => decide (k.toNat < c.rbCount)
  | .schAdd _ _ => c.hasSched
  | .schDel _ => c.hasSched
  | .schNext => c.hasSched
  | .schDone _ => c.hasSched
  | .schRdslot _ _ => c.hasSched
  | .fvRx _ => true
  | .fvTx => true
  | .fvXfer => true
  | .svcReg _ _ => true
  | .svcDel _ => true
  | .svcIsreg _ => true
  | .svcPlen _ => true
  | .svcNext => true
  | .svcRdparam _ _ => true
  | .svcDone _ _ => true
  | .svcResp _ => true
  | .csrRead _ => true
  | .csrWrite _ _ => true

end Sys2Proof
end

