-- ==== Sys2Proof/Machine/Operands.lean ====
section
/-! DEFINITION. Operands (30_encoding.md R105 to R107): command ports and their numbers, which port a command is legal
on, the service port a port ID names, the width of an element, modular cursor arithmetic (00_scope.md R11). -/

namespace Sys2Proof.Machine

/-- `a +_M b` (R11). -/
def addM (m a b : Nat) : Nat := (a + b) % m

/-- `a -_M b` (R11). -/
def subM (m a b : Nat) : Nat := (a + (m - b % m)) % m

/-- The number of a command port (R76). -/
def portNumber : Port → Nat
  | .host => 0
  | .transport => 1
  | .producer k => 2 + 2 * k
  | .consumer k => 3 + 2 * k

/-- The command port of a number (R76). -/
def portOfNumber (n : Nat) : Port :=
  if n = 0 then .host
  else if n = 1 then .transport
  else if n % 2 = 0 then .producer ((n - 2) / 2)
  else .consumer ((n - 3) / 2)

/-- The command port exists: HOST, TRANSPORT, and PRODUCER(k), CONSUMER(k) for `k < RB_COUNT` (R30). -/
def portExists (c : Cfg) : Port → Bool
  | .host => true
  | .transport => true
  | .producer k => decide (k < c.rbCount)
  | .consumer k => decide (k < c.rbCount)

/-- The command came from PRODUCER(k), and ring `k` exists (R105, row RB_PUSH). -/
def onProducer (k : BitVec 8) (s : State) : Bool :=
  decide (k.toNat < s.cfg.rbCount) && decide (s.port = .producer k.toNat)

/-- The command came from CONSUMER(k), and ring `k` exists (R105, row RB_POP). -/
def onConsumer (k : BitVec 8) (s : State) : Bool :=
  decide (k.toNat < s.cfg.rbCount) && decide (s.port = .consumer k.toNat)

/-- The command came from TRANSPORT (R105, FV rows). -/
def onTransport (s : State) : Bool := decide (s.port = .transport)

/-- The command came from HOST (R105, SVC and CSR rows). -/
def onHost (s : State) : Bool := decide (s.port = .host)

/-- The command came from HOST and the scheduler is present (R105, SCH rows; R150). -/
def onHostWithSched (s : State) : Bool := decide (s.port = .host) && s.cfg.hasSched

/-- The table of R105: the command is legal on the issuing port of this state. -/
def portLegal : Instr → State → Bool
  | .rbPush k _, s => onProducer k s
  | .rbPop k, s => onConsumer k s
  | .rbLen k, s => onProducer k s || onConsumer k s
  | .fvRx _, s => onTransport s
  | .fvTx, s => onTransport s
  | .fvXfer, s => onTransport s
  | .svcReg _ _, s => onHost s
  | .svcDel _, s => onHost s
  | .svcIsreg _, s => onHost s
  | .svcPlen _, s => onHost s
  | .svcNext, s => onHost s
  | .svcRdparam _ _, s => onHost s
  | .svcDone _ _, s => onHost s
  | .svcResp _, s => onHost s
  | .schAdd _ _, s => onHostWithSched s
  | .schDel _, s => onHostWithSched s
  | .schNext, s => onHostWithSched s
  | .schDone _, s => onHostWithSched s
  | .schRdslot _ _, s => onHostWithSched s
  | .csrRead _, s => onHost s
  | .csrWrite _ _, s => onHost s

/-- A port on which the command is legal when its unit and ring exist (R105); RB_LEN is also legal on PRODUCER(k). -/
def homePort : Instr → Port
  | .rbPush k _ => .producer k.toNat
  | .rbPop k => .consumer k.toNat
  | .rbLen k => .consumer k.toNat
  | .fvRx _ => .transport
  | .fvTx => .transport
  | .fvXfer => .transport
  | .svcReg _ _ => .host
  | .svcDel _ => .host
  | .svcIsreg _ => .host
  | .svcPlen _ => .host
  | .svcNext => .host
  | .svcRdparam _ _ => .host
  | .svcDone _ _ => .host
  | .svcResp _ => .host
  | .schAdd _ _ => .host
  | .schDel _ => .host
  | .schNext => .host
  | .schDone _ => .host
  | .schRdslot _ _ => .host
  | .csrRead _ => .host
  | .csrWrite _ _ => .host

/-- The port index a port ID names, if it is in `[PORT_BASE, PORT_BASE + PORT_COUNT)` (R180). -/
def svcIndex (c : Cfg) (a : Byte) : Option Nat :=
  if c.isPortId a then some (a.toNat - c.portBase.toNat) else none

/-- `D[WIDTH[k]-1:0]`, zero-extended to 16 bits (R70, R107, R131). -/
def elementOf (w : ElemWidth) (d : Half) : Half :=
  match w with
  | .w8 => (d.setWidth 8).setWidth 16
  | .w16 => d

/-- A byte read out as DATA (R107). -/
def zext16 (b : Byte) : Half := b.setWidth 16

/-- A number read out as DATA (R107). -/
def dataOf (n : Nat) : Half := BitVec.ofNat 16 n

/-- A one-bit field read out as DATA (R107). -/
def bitData (b : Bool) : Half := if b then 1#16 else 0#16

/-- The code of a result code (R108). -/
def rcCode : ResultCode → Byte
  | .ok => 0x00#8
  | .full => 0x01#8
  | .empty => 0x02#8
  | .tableFull => 0x03#8
  | .invalidHandle => 0x04#8
  | .invalidPort => 0x05#8
  | .invalidService => 0x06#8
  | .alreadyRegistered => 0x07#8
  | .invalidLen => 0x08#8
  | .invalidIndex => 0x09#8
  | .none => 0x0A#8
  | .seqError => 0x0B#8
  | .illegal => 0x0C#8

/-- The result word `(RC, 0x00, DATA)` (R12, R108). -/
def resultWord (rc : ResultCode) (data : Half) : Word := rcCode rc ++ 0x00#8 ++ data

/-- The code of a parser state (R37). -/
def pstateCode : PState → BitVec 3
  | .header => 0#3
  | .length => 1#3
  | .port => 2#3
  | .data => 3#3
  | .checksum => 4#3
  | .badFrame => 5#3
  | .portQuery => 6#3
  | .statusQuery => 7#3

end Sys2Proof.Machine
end

