-- ==== Sys2Proof/Machine/Ops.lean ====
section
/-! DEFINITION. The named operations over the state: reading and writing the storages (20_memory.md R70), answering a
command (00_scope.md R12, R13), refusing one on a wrong port (30_encoding.md R105, R106), the lowest-index scan, the
CRC-8 (43_frame_validator.md R211). The block has no exceptions to take or return from (60_exceptions.md R270, R275,
R276): every failure is a result code, written by `fail`. -/

namespace Sys2Proof.Machine

/-! Sparse storage. -/

/-- The value of a cell, if it has been written. -/
def storeGet {w : Nat} : Store w → Nat → Option (BitVec w)
  | [], _ => none
  | (a, x) :: m, i => if a = i then some x else storeGet m i

/-- Write a cell, keeping the indexes strictly rising. -/
def storeSet {w : Nat} : Store w → Nat → BitVec w → Store w
  | [], i, v => [(i, v)]
  | (a, x) :: m, i, v =>
    if i < a then (i, v) :: (a, x) :: m
    else if i = a then (i, v) :: m
    else (a, x) :: storeSet m i v

/-- The indexes of a storage rise strictly, so none repeats. -/
def storeRising {w : Nat} : Store w → Bool
  | [] => true
  | (a, _) :: m => m.all (fun x => decide (a < x.1)) && storeRising m

/-- The canonical form: indexes strictly rising and below the size of the storage. -/
def storeWf {w : Nat} (size : Nat) (m : Store w) : Bool := storeRising m && m.all (fun x => decide (x.1 < size))

/-! Tables of the state. The default of a lookup is never reached where the rules check the index first. -/

/-- `S.rb[k]` (R32). -/
def ringAt (s : State) (k : Nat) : Ring := s.rb.getD k Ring.reset

/-- `S.rb[k] <- r` (R32). -/
def setRing (k : Nat) (r : Ring) (s : State) : State := s.withRb (s.rb.set k r)

/-- `S.svc[i]` (R36). -/
def svcAt (s : State) (i : Nat) : SvcPort := s.svc.getD i (SvcPort.reset s.cfg)

/-- `S.svc[i] <- p` (R36). -/
def setSvc (i : Nat) (p : SvcPort) (s : State) : State := s.withSvc (s.svc.set i p)

/-- `S.sch[j]` (R38). -/
def slotAt (s : State) (j : Nat) : Slot := s.sch.slots.getD j Slot.empty

/-- `S.sch[j] <- x` (R38). -/
def setSlot (j : Nat) (x : Slot) (s : State) : State := s.withSch { s.sch with slots := s.sch.slots.set j x }

/-- The RESULT register of a port (R30). -/
def resultAt (s : State) (p : Port) : Word := s.result.getD (portNumber p) 0#32

/-- `MemRead_k(i)` (R12, R70): slot `i` of ring `k`. An unwritten slot holds a FREE VALUE of the element's width
(R32, R71; log 4). -/
def memRead (s : State) (k i : Nat) : Half :=
  (storeGet (ringAt s k).mem i).getD (elementOf (s.cfg.ring k).width (Config.unwrittenSlot s.epoch k i))

/-- `MemWrite_k(i, v)` (R12, R70) as the ring's new storage: slot `i` becomes `v[WIDTH[k]-1:0]`. -/
def memWrite (s : State) (k i : Nat) (v : Half) : Store 16 :=
  storeSet (ringAt s k).mem i (elementOf (s.cfg.ring k).width v)

/-- Byte `i` of the frame buffer (R37). An unwritten byte holds a FREE VALUE (R71; log 4). -/
def fbufRead (s : State) (i : Nat) : Byte := (storeGet s.fv.fbuf i).getD (Config.unwrittenFbuf s.epoch i)

/-- Every storage of the state is in its canonical form: ring storage below `CAP` (R32), the frame buffer below
`MAX_LEN - 1` (R37). -/
def Memory.wf (s : State) : Bool :=
  (List.range s.cfg.rbCount).all (fun k => storeWf (s.cfg.ring k).cap (ringAt s k).mem) &&
    storeWf (s.cfg.maxLen.toNat - 1) s.fv.fbuf

/-! Answers. -/

/-- `respond(rc, data)`: write the issuing port's RESULT register (R12, R108). -/
def respond (rc : ResultCode) (data : Half) (s : State) : State :=
  s.withResult (s.result.set (portNumber s.port) (resultWord rc data))

/-- `respond(rc, 0); return` with no other change: an error answer (R13, R108, R270). -/
def fail (rc : ResultCode) (s : State) : State := respond rc 0#16 s

/-- A command legal on the issuing port runs; on any other port it is answered RC_ILLEGAL (R105, R106). -/
def ifLegal (legal : Bool) (s : State) (t : State) : Out := .next (if legal then t else fail .illegal s)

/-- The port check that comes first in every SVC command with a port operand (R180). -/
def withSvcPort (a : Byte) (s : State) (act : Nat → State) : State :=
  match svcIndex s.cfg a with
  | none => fail .invalidPort s
  | some i => act i

/-- The lowest index below `n` that satisfies `p`. -/
def lowest (n : Nat) (p : Nat → Bool) : Option Nat := (List.range n).find? p

/-! CRC-8. -/

/-- One of the eight rounds of `crc8_step` (R211): polynomial 0x9B, most significant bit first. -/
def crc8Round (c : Byte) : Byte := if c.getLsbD 7 then (c <<< 1) ^^^ 0x9B#8 else c <<< 1

/-- `crc8_step(c, b)` (R211). -/
def crc8Step (c b : Byte) : Byte := Nat.repeat crc8Round 8 (c ^^^ b)

/-- `crc8` of a byte string, seed 0xFF (R211). -/
def crc8 (bs : List Byte) : Byte := bs.foldl crc8Step 0xFF#8

end Sys2Proof.Machine
end

