-- ==== Sys2Proof/Machine/Flags.lean ====
section
/-! DEFINITION. Derived quantities, status flags and level outputs (10_state.md R33, R41, R42): pure functions of the
state. The block has no condition-code register (R41). -/

namespace Sys2Proof.Machine

/-- `count(k) = head -_M tail`, the true occupancy (R33). -/
def count (s : State) (k : Nat) : Nat := subM (s.cfg.ring k).modulus (ringAt s k).head (ringAt s k).tail

/-- `pcount(k) = head -_M tail_p`, the occupancy as the producer side sees it (R33). -/
def pcount (s : State) (k : Nat) : Nat := subM (s.cfg.ring k).modulus (ringAt s k).head (ringAt s k).tailP

/-- `ccount(k) = head_c -_M tail`, the occupancy as the consumer side sees it (R33). -/
def ccount (s : State) (k : Nat) : Nat := subM (s.cfg.ring k).modulus (ringAt s k).headC (ringAt s k).tail

/-- `full_p(k)` (R33). -/
def fullP (s : State) (k : Nat) : Bool := decide (pcount s k = (s.cfg.ring k).cap)

/-- `empty_c(k)` (R33). -/
def emptyC (s : State) (k : Nat) : Bool := decide (ccount s k = 0)

/-- `due(j)`: the slot is occupied and has a pending run (R41). -/
def due (s : State) (j : Nat) : Bool := (slotAt s j).occ && decide (0 < (slotAt s j).run.toNat)

/-- Output `rb_ne_o[k]` (R42). -/
def rbNotEmptyOut (s : State) (k : Nat) : Bool := !emptyC s k

/-- Output `rb_nf_o[k]` (R42). -/
def rbNotFullOut (s : State) (k : Nat) : Bool := !fullP s k

/-- Output `svc_pend_o` (R42). -/
def svcPendOut (s : State) : Bool := (List.range s.cfg.portCount).any (fun i => (svcAt s i).pending)

/-- Output `task_due_o`, 0 when the scheduler is absent (R42). -/
def taskDueOut (s : State) : Bool := s.cfg.hasSched && (List.range s.cfg.nslots).any (fun j => due s j)

end Sys2Proof.Machine
end

