-- ==== Sys2Proof/Machine/Csr.lean ====
section
/-! DEFINITION. The control and status registers: CSR_READ, CSR_WRITE and the value of every CSR (44_csr.md R250 to
R264). No CSR holds state of its own (R43). -/

namespace Sys2Proof.Machine

/-- The 16-bit map whose bit `i` is `p i` for `i < n` and 0 above (R263, R264). -/
def bitmap (n : Nat) (p : Nat → Bool) : Half :=
  (List.range 16).foldr (fun i acc => if i < n && p i then acc ||| (1#16 <<< i) else acc) 0#16

/-- CFG0 (R253). -/
def csrCfg0 (c : Cfg) : Half :=
  0#3 ++ BitVec.ofNat 5 c.slotCount ++ 0#1 ++ BitVec.ofBool c.hasTimer ++ BitVec.ofBool c.hasSched ++
    BitVec.ofNat 5 c.rbCount

/-- CFG1 (R254). -/
def csrCfg1 (c : Cfg) : Half := 0#3 ++ BitVec.ofNat 5 c.portCount ++ c.portBase

/-- CFG2 (R255). -/
def csrCfg2 (c : Cfg) : Half := c.svcHeader ++ c.maxLen

/-- CFG3 (R256). -/
def csrCfg3 (c : Cfg) : Half := 0#8 ++ c.statusHeader

/-- RBCFG[k] (R260). -/
def csrRbcfg (r : RingCfg) : Half :=
  0#10 ++ BitVec.ofBool (decide (r.clocking = .async)) ++ BitVec.ofBool (decide (r.width = .w16)) ++ BitVec.ofNat 4 r.aw

/-- RBSTAT[k] (R261). -/
def csrRbstat (s : State) (k : Nat) : Half := 0#14 ++ BitVec.ofBool (fullP s k) ++ BitVec.ofBool (emptyC s k)

/-- TMRCTRL (R257). -/
def csrTmrctrl (s : State) : Half := 0#15 ++ BitVec.ofBool s.tmr.en

/-- FVSTAT (R262). -/
def csrFvstat (s : State) : Half := 0#1 ++ s.fv.qport ++ pstateCode s.fv.st ++ s.fv.fstatus

/-- SVCREG (R263). -/
def csrSvcreg (s : State) : Half := bitmap s.cfg.portCount (fun i => (svcAt s i).reg)

/-- SVCPEND (R263). -/
def csrSvcpend (s : State) : Half := bitmap s.cfg.portCount (fun i => (svcAt s i).pending)

/-- SVCSCAN (R263). -/
def csrSvcscan (s : State) : Half := 0#11 ++ s.ssp

/-- SCHOCC (R264). -/
def csrSchocc (s : State) : Half := bitmap s.cfg.nslots (fun j => (slotAt s j).occ)

/-- SCHDUE (R264). -/
def csrSchdue (s : State) : Half := bitmap s.cfg.nslots (fun j => due s j)

/-- SCHSTAT (R264). -/
def csrSchstat (s : State) : Half := 0#6 ++ BitVec.ofBool s.sch.inflight ++ s.sch.ifslot ++ s.sch.sp

/-- A value that is present only with its unit (R252). -/
def ifPresent (present : Bool) (v : Half) : Option Half := if present then some v else none

/-- The value of CSR `n`, or none where `n` is no CSR of this configuration (R250, R252). -/
def csrValue (s : State) (n : Nat) : Option Half :=
  match n with
  | 0x00 => some (csrCfg0 s.cfg)
  | 0x01 => some (csrCfg1 s.cfg)
  | 0x02 => some (csrCfg2 s.cfg)
  | 0x03 => some (csrCfg3 s.cfg)
  | 0x30 => ifPresent s.cfg.hasTimer (csrTmrctrl s)
  | 0x31 => ifPresent s.cfg.hasTimer s.tmr.reload
  | 0x32 => ifPresent s.cfg.hasTimer s.tmr.count
  | 0x40 => some (csrFvstat s)
  | 0x41 => some (csrSvcreg s)
  | 0x42 => some (csrSvcpend s)
  | 0x43 => some (csrSvcscan s)
  | 0x50 => ifPresent s.cfg.hasSched (csrSchocc s)
  | 0x51 => ifPresent s.cfg.hasSched (csrSchdue s)
  | 0x52 => ifPresent s.cfg.hasSched (csrSchstat s)
  | n =>
    if 0x10 ≤ n ∧ n < 0x20 then ifPresent (decide (n - 0x10 < s.cfg.rbCount)) (csrRbcfg (s.cfg.ring (n - 0x10)))
    else if 0x20 ≤ n ∧ n < 0x30 then ifPresent (decide (n - 0x20 < s.cfg.rbCount)) (csrRbstat s (n - 0x20))
    else none

/-- The TMRCTRL write (R257): enabling a stopped timer loads `count`. -/
def writeTmrctrl (v : Half) (s : State) : State :=
  s.withTmr { s.tmr with
    count := if s.tmr.en = false ∧ v.getLsbD 0 then s.tmr.reload else s.tmr.count
    en := v.getLsbD 0 }

/-- The TMRRELOAD write (R258): `count` does not change. -/
def writeTmrreload (v : Half) (s : State) : State := s.withTmr { s.tmr with reload := v }

/-- CSR_READ (R250). -/
def execCsrRead (n : BitVec 8) (s : State) : Out :=
  ifLegal (onHost s) s <|
    match csrValue s n.toNat with
    | none => fail .illegal s
    | some v => respond .ok v s

/-- CSR_WRITE (R251): only TMRCTRL and TMRRELOAD are writable. -/
def execCsrWrite (n : BitVec 8) (v : BitVec 16) (s : State) : Out :=
  ifLegal (onHost s) s <|
    if n = 0x30#8 ∧ s.cfg.hasTimer then respond .ok 0#16 (writeTmrctrl v s)
    else if n = 0x31#8 ∧ s.cfg.hasTimer then respond .ok 0#16 (writeTmrreload v s)
    else fail .illegal s

end Sys2Proof.Machine
end

