-- ==== Sys2Proof/Machine/Ring.lean ====
section
/-! DEFINITION. The ring-buffer commands RB_PUSH, RB_POP, RB_LEN (40_ringbuffer.md R130 to R133). -/

namespace Sys2Proof.Machine

/-- The push of R131 on ring `k`: the element is stored, `head` advances, and in SYNC clocking `head_c` with it (R34). -/
def ringPush (k : Nat) (d : Half) (s : State) : State :=
  let c := s.cfg.ring k
  let r := ringAt s k
  let h := addM c.modulus r.head 1
  setRing k { r with mem := memWrite s k (r.head % c.cap) d, head := h, headC := if c.clocking = .sync then h else r.headC } s

/-- The pop of R132 on ring `k`: `tail` advances, and in SYNC clocking `tail_p` with it (R34). -/
def ringPop (k : Nat) (s : State) : State :=
  let c := s.cfg.ring k
  let r := ringAt s k
  let t := addM c.modulus r.tail 1
  setRing k { r with tail := t, tailP := if c.clocking = .sync then t else r.tailP } s

/-- RB_PUSH (R131). -/
def execRbPush (k : BitVec 8) (d : BitVec 16) (s : State) : Out :=
  ifLegal (onProducer k s) s
    (if fullP s k.toNat then fail .full s else respond .ok 0#16 (ringPush k.toNat d s))

/-- RB_POP (R132). -/
def execRbPop (k : BitVec 8) (s : State) : Out :=
  ifLegal (onConsumer k s) s
    (if emptyC s k.toNat then fail .empty s
    else respond .ok (memRead s k.toNat ((ringAt s k.toNat).tail % (s.cfg.ring k.toNat).cap)) (ringPop k.toNat s))

/-- RB_LEN (R133): each side reads its own view of the occupancy. -/
def execRbLen (k : BitVec 8) (s : State) : Out :=
  ifLegal (onProducer k s || onConsumer k s) s
    (respond .ok (dataOf (if s.port = .producer k.toNat then pcount s k.toNat else ccount s k.toNat)) s)

end Sys2Proof.Machine
end

