-- ==== Sys2Proof/Machine/Scheduler.lean ====
section
/-! DEFINITION. The scheduler and dispatch selector: SCH_ADD, SCH_DEL, SCH_NEXT, SCH_DONE, SCH_RDSLOT and the effect of
one TICK (41_scheduler.md R150 to R158). -/

namespace Sys2Proof.Machine

/-- The slot SCH_ADD fills in for a task (d, p) (R151). -/
def newTask (d p : BitVec 12) : Slot :=
  if d = 0#12 then ⟨true, if p = 0#12 then 0#12 else p - 1#12, p, 1#8⟩ else ⟨true, d - 1#12, p, 0#8⟩

/-- The effect of one TICK on one slot (R153): the run-count saturates at 255. -/
def tickSlot (x : Slot) : Slot :=
  if x.occ then
    if x.delay = 0#12 then
      { x with
        run := BitVec.ofNat 8 (min (x.run.toNat + 1) 255)
        delay := if x.period = 0#12 then x.delay else x.period - 1#12 }
    else { x with delay := x.delay - 1#12 }
  else x

/-- TICK (R153): every slot, the in-flight one included; no RESULT, no scan state. -/
def tickAll (s : State) : State := s.withSch { s.sch with slots := s.sch.slots.map tickSlot }

/-- The lowest free slot (R151). -/
def freeSlot (s : State) : Option Nat := lowest s.cfg.nslots (fun j => !(slotAt s j).occ)

/-- The slot SCH_NEXT hands out: the lowest due slot at or above the scan position (R154). -/
def nextDue (s : State) : Option Nat :=
  lowest s.cfg.nslots (fun j => decide (s.sch.sp.toNat ≤ j) && due s j)

/-- The slot is handed out: one run less, the scan moves past it, it is in flight (R154). -/
def handOut (j : Nat) (s : State) : State :=
  s.withSch
    { slots := s.sch.slots.set j { slotAt s j with run := (slotAt s j).run - 1#8 }
      sp := BitVec.ofNat 5 (j + 1)
      inflight := true
      ifslot := BitVec.ofNat 4 j }

/-- The in-flight task is finished: a one-shot slot is freed (R155). -/
def finish (h : Nat) (s : State) : State :=
  let s1 := s.withSch { s.sch with inflight := false }
  if (slotAt s h).period = 0#12 then
    setSlot h { slotAt s h with occ := false, delay := 0#12, run := 0#8 } s1
  else s1

/-- The field of a slot a selector names (R156). -/
def slotField (x : Slot) (sel : BitVec 2) : Half :=
  match sel.toNat with
  | 0 => x.delay.setWidth 16
  | 1 => x.period.setWidth 16
  | 2 => x.run.setWidth 16
  | _ => bitData x.occ

/-- SCH_ADD (R151). -/
def execSchAdd (d p : BitVec 12) (s : State) : Out :=
  ifLegal (onHostWithSched s) s <|
    if s.sch.inflight then fail .seqError s
    else
      match freeSlot s with
      | none => fail .tableFull s
      | some j => respond .ok (dataOf j) (setSlot j (newTask d p) s)

/-- SCH_DEL (R152): the re-entry check comes before the range check (R274). -/
def execSchDel (h : BitVec 8) (s : State) : Out :=
  ifLegal (onHostWithSched s) s <|
    if s.sch.inflight then fail .seqError s
    else if s.cfg.nslots ≤ h.toNat then fail .invalidHandle s
    else respond .ok 0#16 (setSlot h.toNat Slot.empty s)

/-- SCH_NEXT (R154). -/
def execSchNext (s : State) : Out :=
  ifLegal (onHostWithSched s) s <|
    if s.sch.inflight then fail .seqError s
    else
      match nextDue s with
      | none => fail .none (s.withSch { s.sch with sp := 0#5 })
      | some j => respond .ok (dataOf j) (handOut j s)

/-- SCH_DONE (R155): the range check comes before the sequence check (R274). -/
def execSchDone (h : BitVec 8) (s : State) : Out :=
  ifLegal (onHostWithSched s) s <|
    if s.cfg.nslots ≤ h.toNat then fail .invalidHandle s
    else if s.sch.inflight = false ∨ s.sch.ifslot.toNat ≠ h.toNat then fail .seqError s
    else respond .ok 0#16 (finish h.toNat s)

/-- SCH_RDSLOT (R156): a pure query, allowed while a task is in flight. -/
def execSchRdslot (h : BitVec 8) (sel : BitVec 2) (s : State) : Out :=
  ifLegal (onHostWithSched s) s <|
    if s.cfg.nslots ≤ h.toNat then fail .invalidHandle s
    else respond .ok (slotField (slotAt s h.toNat) sel) s

end Sys2Proof.Machine
end

