-- ==== Sys2Proof/Machine/Service.lean ====
section
/-! DEFINITION. The host side of the service-port table: SVC_REG, SVC_DEL, SVC_ISREG, SVC_PLEN, SVC_NEXT, SVC_RDPARAM,
SVC_DONE, SVC_RESP (42_service_table.md R180 to R190). -/

namespace Sys2Proof.Machine

/-- The port SVC_NEXT hands out: the lowest pending index at or above the scan position (R186). -/
def nextPending (s : State) : Option Nat :=
  lowest s.cfg.portCount (fun i => decide (s.ssp.toNat ≤ i) && (svcAt s i).pending)

/-- SVC_REG (R181). -/
def execSvcReg (a n : BitVec 8) (s : State) : Out :=
  ifLegal (onHost s) s <| withSvcPort a s fun i =>
    if (svcAt s i).reg then fail .alreadyRegistered s
    else if s.cfg.maxLen.toNat - 1 < n.toNat then fail .invalidLen s
    else
      respond .ok 0#16
        (setSvc i ⟨true, n, false, s.cfg.ws.unknown, List.replicate (s.cfg.maxLen.toNat - 1) 0#8⟩ s)

/-- SVC_DEL (R182): `resp` and the parameter bytes are kept. -/
def execSvcDel (a : BitVec 8) (s : State) : Out :=
  ifLegal (onHost s) s <| withSvcPort a s fun i =>
    respond .ok 0#16 (setSvc i { svcAt s i with reg := false, plen := 0#8, pending := false } s)

/-- SVC_ISREG (R183). -/
def execSvcIsreg (a : BitVec 8) (s : State) : Out :=
  ifLegal (onHost s) s <| withSvcPort a s fun i => respond .ok (bitData (svcAt s i).reg) s

/-- SVC_PLEN (R184). -/
def execSvcPlen (a : BitVec 8) (s : State) : Out :=
  ifLegal (onHost s) s <| withSvcPort a s fun i => respond .ok (zext16 (svcAt s i).plen) s

/-- SVC_NEXT (R186). -/
def execSvcNext (s : State) : Out :=
  ifLegal (onHost s) s <|
    match nextPending s with
    | none => fail .none (s.withSsp 0#5)
    | some i => respond .ok (dataOf (s.cfg.portBase.toNat + i)) (s.withSsp (BitVec.ofNat 5 (i + 1)))

/-- SVC_RDPARAM (R187). -/
def execSvcRdparam (a j : BitVec 8) (s : State) : Out :=
  ifLegal (onHost s) s <| withSvcPort a s fun i =>
    if (svcAt s i).reg = false then fail .invalidService s
    else if (svcAt s i).plen.toNat ≤ j.toNat then fail .invalidIndex s
    else respond .ok (zext16 ((svcAt s i).param.getD j.toNat 0#8)) s

/-- SVC_DONE (R189). -/
def execSvcDone (a v : BitVec 8) (s : State) : Out :=
  ifLegal (onHost s) s <| withSvcPort a s fun i =>
    if (svcAt s i).pending = false then fail .seqError s
    else respond .ok 0#16 (setSvc i { svcAt s i with resp := v, pending := false } s)

/-- SVC_RESP (R190). -/
def execSvcResp (a : BitVec 8) (s : State) : Out :=
  ifLegal (onHost s) s <| withSvcPort a s fun i => respond .ok (zext16 (svcAt s i).resp) s

end Sys2Proof.Machine
end

