-- ==== Sys2Proof/Machine/Validator.lean ====
section
/-! DEFINITION. The frame parser and CRC-8 validator: FV_RX with its rule per parser state, the frame commit, FV_TX,
FV_XFER (43_frame_validator.md R210 to R223). -/

namespace Sys2Proof.Machine

/-- Record a frame status and move to a parser state. -/
def fvEnd (status : Byte) (st : PState) (s : State) : State := s.withFv { s.fv with fstatus := status, st := st }

/-- Move to a parser state. -/
def fvGoto (st : PState) (s : State) : State := s.withFv { s.fv with st := st }

/-- `S.fv.crc <- crc8_step(S.fv.crc, b)`. -/
def fvCrc (b : Byte) (s : State) : State := s.withFv { s.fv with crc := crc8Step s.fv.crc b }

/-- FV_RX in HEADER, PORT_QUERY or STATUS_QUERY (R214). -/
def rxHeader (b : Byte) (s : State) : State :=
  if b = s.cfg.svcHeader then
    s.withFv { s.fv with crc := crc8Step 0xFF#8 b, len := 0#8, cnt := 0#8, st := .length }
  else if b = s.cfg.statusHeader then fvGoto .statusQuery s
  else
    match svcIndex s.cfg b with
    | some i =>
      if (svcAt s i).reg then s.withFv { s.fv with qport := BitVec.ofNat 4 i, st := .portQuery }
      else fvEnd s.cfg.ws.headerErr .badFrame s
    | none => fvEnd s.cfg.ws.headerErr .badFrame s

/-- FV_RX in LENGTH (R215). -/
def rxLength (b : Byte) (s : State) : State :=
  let s1 := fvCrc b s
  if b = 0#8 ∨ s.cfg.maxLen.toNat < b.toNat then fvEnd s.cfg.ws.sizeErr .badFrame s1
  else s1.withFv { s1.fv with len := b, st := .port }

/-- FV_RX in PORT (R216): range, then registration, then length. -/
def rxPort (b : Byte) (s : State) : State :=
  let s1 := fvCrc b s
  match svcIndex s.cfg b with
  | none => fvEnd s.cfg.ws.portErr .badFrame s1
  | some i =>
    if (svcAt s i).reg = false then fvEnd s.cfg.ws.serviceErr .badFrame s1
    else if (svcAt s i).plen ≠ s.fv.len - 1#8 then fvEnd s.cfg.ws.paramErr .badFrame s1
    else
      s1.withFv { s1.fv with
        pidx := BitVec.ofNat 4 i, cnt := 0#8, st := if s.fv.len = 1#8 then .checksum else .data }

/-- FV_RX in DATA (R217). The test for the last data byte reads the new `cnt` (log 6). -/
def rxData (b : Byte) (s : State) : State :=
  let cnt := s.fv.cnt + 1#8
  s.withFv { s.fv with
    fbuf := storeSet s.fv.fbuf s.fv.cnt.toNat b
    crc := crc8Step s.fv.crc b
    cnt := cnt
    st := if cnt = s.fv.len - 1#8 then .checksum else s.fv.st }

/-- The port's parameter bytes with bytes `0 .. n-1` taken from the frame buffer (R220). -/
def commitParam (n : Nat) (s : State) (old : List Byte) : List Byte :=
  (List.range n).map (fbufRead s) ++ old.drop n

/-- Commit of an accepted frame (R220). -/
def fvCommit (s : State) : State :=
  let i := s.fv.pidx.toNat
  let p := svcAt s i
  let n := s.fv.len - 1#8
  if p.reg = false then fvEnd s.cfg.ws.serviceErr .badFrame s
  else if p.plen ≠ n then fvEnd s.cfg.ws.paramErr .badFrame s
  else if p.pending then fvEnd s.cfg.ws.busy .header s
  else fvEnd s.cfg.ws.ok .header (setSvc i { p with param := commitParam n.toNat s p.param, pending := true } s)

/-- FV_RX in CHECKSUM (R218). -/
def rxChecksum (b : Byte) (s : State) : State :=
  if b ≠ s.fv.crc then fvEnd s.cfg.ws.checksumErr .badFrame s else fvCommit s

/-- The rule of the current parser state for a received byte (R213); in BAD_FRAME nothing changes (R219). -/
def fvReceive (b : Byte) (s : State) : State :=
  match s.fv.st with
  | .header => rxHeader b s
  | .portQuery => rxHeader b s
  | .statusQuery => rxHeader b s
  | .length => rxLength b s
  | .port => rxPort b s
  | .data => rxData b s
  | .checksum => rxChecksum b s
  | .badFrame => s

/-- The byte FV_TX sends (R222). -/
def fvTxByte (s : State) : Byte :=
  match s.fv.st with
  | .portQuery => (svcAt s s.fv.qport.toNat).resp
  | .statusQuery => s.fv.fstatus
  | .header => s.cfg.ws.unknown
  | .length => s.cfg.ws.unknown
  | .port => s.cfg.ws.unknown
  | .data => s.cfg.ws.unknown
  | .checksum => s.cfg.ws.unknown
  | .badFrame => s.cfg.ws.unknown

/-- The effect of a start or stop condition on the parser (R223). -/
def fvTransfer (s : State) : State :=
  match s.fv.st with
  | .badFrame => fvGoto .header s
  | .length => fvEnd s.cfg.ws.sizeErr .header s
  | .port => fvEnd s.cfg.ws.sizeErr .header s
  | .data => fvEnd s.cfg.ws.sizeErr .header s
  | .checksum => fvEnd s.cfg.ws.sizeErr .header s
  | .header => s
  | .portQuery => s
  | .statusQuery => s

/-- FV_RX (R213): always answers RC_OK with DATA 0. -/
def execFvRx (b : BitVec 8) (s : State) : Out := ifLegal (onTransport s) s (respond .ok 0#16 (fvReceive b s))

/-- FV_TX (R222): changes no state but RESULT. -/
def execFvTx (s : State) : Out := ifLegal (onTransport s) s (respond .ok (zext16 (fvTxByte s)) s)

/-- FV_XFER (R223). -/
def execFvXfer (s : State) : Out := ifLegal (onTransport s) s (respond .ok 0#16 (fvTransfer s))

end Sys2Proof.Machine
end

