-- ==== Sys2Proof/Machine/Dispatch.lean ====
section
/-! DEFINITION. One arm per command, each one direct call of its meaning (30_encoding.md R106). -/

namespace Sys2Proof.Machine

/-- The meaning of a decoded command, issued on the port `s.port` (R106). -/
def exec (i : Instr) (s : State) : Host.Outcome State Fault Refusal :=
  match i with
  | .rbPush k d => Sys2Proof.Machine.execRbPush k d s
  | .rbPop k => Sys2Proof.Machine.execRbPop k s
  | .rbLen k => Sys2Proof.Machine.execRbLen k s
  | .fvRx b => Sys2Proof.Machine.execFvRx b s
  | .fvTx => Sys2Proof.Machine.execFvTx s
  | .fvXfer => Sys2Proof.Machine.execFvXfer s
  | .svcReg a n => Sys2Proof.Machine.execSvcReg a n s
  | .svcDel a => Sys2Proof.Machine.execSvcDel a s
  | .svcIsreg a => Sys2Proof.Machine.execSvcIsreg a s
  | .svcPlen a => Sys2Proof.Machine.execSvcPlen a s
  | .svcNext => Sys2Proof.Machine.execSvcNext s
  | .svcRdparam a j => Sys2Proof.Machine.execSvcRdparam a j s
  | .svcDone a v => Sys2Proof.Machine.execSvcDone a v s
  | .svcResp a => Sys2Proof.Machine.execSvcResp a s
  | .schAdd d p => Sys2Proof.Machine.execSchAdd d p s
  | .schDel h => Sys2Proof.Machine.execSchDel h s
  | .schNext => Sys2Proof.Machine.execSchNext s
  | .schDone h => Sys2Proof.Machine.execSchDone h s
  | .schRdslot h sel => Sys2Proof.Machine.execSchRdslot h sel s
  | .csrRead n => Sys2Proof.Machine.execCsrRead n s
  | .csrWrite n v => Sys2Proof.Machine.execCsrWrite n v s

end Sys2Proof.Machine
end

