-- ==== Sys2Proof/Machine/Issue.lean ====
section
/-! DEFINITION. Taking a command word from a port (30_encoding.md R106) and the bus binding of the command ports
(20_memory.md R74, R76). -/

namespace Sys2Proof.Machine

/-- A word written to the CMD register of port `p` (R106): decode it, and run the command or answer RC_ILLEGAL. -/
def issue (p : Port) (w : Word) (s : State) : Out :=
  if portExists s.cfg p then
    match decode w with
    | .ok i => exec i (s.withPort p)
    | .error _ => .next (fail .illegal (s.withPort p))
  else .refused (.noSuchPort p)

/-- The access touches the command-port windows `BLOCK_BASE .. BLOCK_BASE + 8 * ports - 1` (R76). -/
def touchesBlock (c : Cfg) (addr size : Nat) : Bool :=
  decide (c.blockBase < addr + size) && decide (addr < c.blockBase + 8 * c.cmdPorts)

/-- The access is an aligned 32-bit access (R74). -/
def aligned32 (addr size : Nat) : Bool := decide (size = 4) && decide (addr % 4 = 0)

/-- The port whose window holds the address (R76). -/
def windowPort (c : Cfg) (addr : Nat) : Port := portOfNumber ((addr - c.blockBase) / 8)

/-- The address is a CMD register, at offset 0 of its window; else it is in the RESULT register, at offset 4 (R76). -/
def isCmdAddr (c : Cfg) (addr : Nat) : Bool := decide ((addr - c.blockBase) % 8 = 0)

/-- A bus write (R74, R76): a write to CMD issues the command, a write to RESULT is ignored, any access that is not
an aligned 32-bit one is answered with the bus error and does nothing. -/
def busWrite (addr size : Nat) (data : Word) (s : State) : Out :=
  if touchesBlock s.cfg addr size = false then .fault (.outsideTheBlock addr)
  else if aligned32 addr size = false then .next (s.withBus .error)
  else if isCmdAddr s.cfg addr then issue (windowPort s.cfg addr) data (s.withBus .done)
  else .next (s.withBus .done)

/-- A bus read (R74, R76): CMD reads 0, RESULT reads the port's result word with no side effect (R75). -/
def busRead (addr size : Nat) (s : State) : Out :=
  if touchesBlock s.cfg addr size = false then .fault (.outsideTheBlock addr)
  else if aligned32 addr size = false then .next (s.withBus .error)
  else if isCmdAddr s.cfg addr then .next (s.withBus (.data 0#32))
  else .next (s.withBus (.data (resultAt s (windowPort s.cfg addr))))

end Sys2Proof.Machine
end

