-- ==== Sys2Proof/Machine/Events.lean ====
section
/-! DEFINITION. The steps that are not commands (30_encoding.md R109): TICK, TMR_CLK, SYNC_P, SYNC_C, RESET; and the
one step a given input causes (20_memory.md R72). -/

namespace Sys2Proof.Machine

/-- TMR_CLK (R160): an expiry reloads the counter and performs the TICK in the same step. -/
def timerClock (s : State) : State :=
  if s.tmr.en then
    if s.tmr.count = 0#16 then tickAll (s.withTmr { s.tmr with count := s.tmr.reload })
    else s.withTmr { s.tmr with count := s.tmr.count - 1#16 }
  else s

/-- SYNC_P(k, v) is enabled (R134): ring `k` is ASYNC and v is a cursor value from `tail_p` to `tail`, cyclically. -/
def syncPEnabled (k v : Nat) (s : State) : Bool :=
  let c := s.cfg.ring k
  let r := ringAt s k
  decide (k < s.cfg.rbCount) && decide (c.clocking = .async) && decide (v < c.modulus) &&
    decide (subM c.modulus v r.tailP ≤ subM c.modulus r.tail r.tailP)

/-- SYNC_C(k, v) is enabled (R135): ring `k` is ASYNC and v is a cursor value from `head_c` to `head`, cyclically. -/
def syncCEnabled (k v : Nat) (s : State) : Bool :=
  let c := s.cfg.ring k
  let r := ringAt s k
  decide (k < s.cfg.rbCount) && decide (c.clocking = .async) && decide (v < c.modulus) &&
    decide (subM c.modulus v r.headC ≤ subM c.modulus r.head r.headC)

/-- SYNC_P(k, v): `tail_p <- v` (R134). -/
def syncP (k v : Nat) (s : State) : State := setRing k { ringAt s k with tailP := v } s

/-- SYNC_C(k, v): `head_c <- v` (R135). -/
def syncC (k v : Nat) (s : State) : State := setRing k { ringAt s k with headC := v } s

/-- RESET (R300): every field at its reset value, the configuration unchanged, the contents of unwritten storage
unspecified anew. What the agents do later is not the block's: the inbox stays. -/
def resetBlock (s : State) : State := ((State.resetOf s.cfg).withInbox s.inbox).withEpoch (s.epoch + 1)

/-- TICK is an input of its own: pulses of `tick_i` reach the block where it has a scheduler and no timer (R10, R153,
R161). With a timer the only TICK is the one a TMR_CLK performs when it expires (R160), so none occurs while the timer is
stopped (R301; log 10). -/
def tickInputExists (c : Cfg) : Bool := c.hasSched && !c.hasTimer

/-- An event happens if it is enabled (R109); a disabled event does not occur. -/
def ifEnabled (enabled : Bool) (x : Input) (t : State) : Out :=
  if enabled then .next t else .refused (.eventNotEnabled x)

/-- The step one input causes (R72): a command, a bus access or an event. -/
def react (x : Input) (s : State) : Out :=
  match x with
  | .command p w => issue p w s
  | .busWrite addr size data => busWrite addr size data s
  | .busRead addr size => busRead addr size s
  | .tick => ifEnabled (tickInputExists s.cfg) .tick (tickAll s)
  | .tmrClk => ifEnabled s.cfg.hasTimer .tmrClk (timerClock s)
  | .syncP k v => ifEnabled (syncPEnabled k v s) (.syncP k v) (syncP k v s)
  | .syncC k v => ifEnabled (syncCEnabled k v s) (.syncC k v) (syncC k v s)
  | .reset => .next (resetBlock s)

end Sys2Proof.Machine
end

