-- ==== Sys2Proof/Machine/Step.lean ====
section
/-! DEFINITION. One step of the machine (20_memory.md R72): the next input of the one total order of all agents' steps
takes its whole effect. Where nothing is to come, nothing advances (10_state.md R31). -/

namespace Sys2Proof.Machine

/-- One atomic step (R72). A configuration that violates R7 is refused: no block exists for it. -/
def step (s : State) : Host.Outcome State Fault Refusal :=
  if s.cfg.wf then
    match s.inbox with
    | [] => .next s
    | x :: rest => react x (s.withInbox rest)
  else .refused .refusedConfiguration

/-- The port on which a command word is tried: a port where its command is legal, HOST for an illegal word and for a
command of a ring the block does not have (illegal on every port, R105). -/
def fetchPort (c : Cfg) (w : Word) : Port :=
  match decode w with
  | .ok i => if portExists c (homePort i) then homePort i else .host
  | .error _ => .host

/-- The state in which the next step takes the command word whose bits are `w` from a port where it is legal: the
word is written to that port's CMD register next (R106). DESIGN CHOICE (log 3). -/
def State.withFetchWord (s : State) (nbits w : Nat) : State :=
  s.withInbox (.command (fetchPort s.cfg (tableWord nbits w)) (tableWord nbits w) :: s.inbox)

end Sys2Proof.Machine
end

