-- ==== Sys2Proof/Machine/Assembly.lean ====
section
/-! DEFINITION. The spec's assembly notation and its pseudo-instructions (30_encoding.md R110, R111). They are macros of
the notation: no step rests on them. -/

namespace Sys2Proof.Machine

/-- The name of a port in an assembly line (R110). -/
def asmPort : Port → String
  | .host => "host"
  | .transport => "tp"
  | .producer k => "p" ++ toString k
  | .consumer k => "c" ++ toString k

/-- The command part of an assembly line, operands in decimal (R110). -/
def asmInstr : Instr → String
  | .rbPush k d => "rb.push " ++ toString k.toNat ++ ", " ++ toString d.toNat
  | .rbPop k => "rb.pop " ++ toString k.toNat
  | .rbLen k => "rb.len " ++ toString k.toNat
  | .fvRx b => "fv.rx " ++ toString b.toNat
  | .fvTx => "fv.tx"
  | .fvXfer => "fv.xfer"
  | .svcReg a n => "svc.reg " ++ toString a.toNat ++ ", " ++ toString n.toNat
  | .svcDel a => "svc.del " ++ toString a.toNat
  | .svcIsreg a => "svc.isreg " ++ toString a.toNat
  | .svcPlen a => "svc.plen " ++ toString a.toNat
  | .svcNext => "svc.next"
  | .svcRdparam a j => "svc.rdparam " ++ toString a.toNat ++ ", " ++ toString j.toNat
  | .svcDone a v => "svc.done " ++ toString a.toNat ++ ", " ++ toString v.toNat
  | .svcResp a => "svc.resp " ++ toString a.toNat
  | .schAdd d p => "sch.add " ++ toString d.toNat ++ ", " ++ toString p.toNat
  | .schDel h => "sch.del " ++ toString h.toNat
  | .schNext => "sch.next"
  | .schDone h => "sch.done " ++ toString h.toNat
  | .schRdslot h sel => "sch.rdslot " ++ toString h.toNat ++ ", " ++ toString sel.toNat
  | .csrRead n => "csr.read " ++ toString n.toNat
  | .csrWrite n v => "csr.write " ++ toString n.toNat ++ ", " ++ toString v.toNat

/-- One assembly line (R110). -/
def asmLine (p : Port) (i : Instr) : String := asmPort p ++ ": " ++ asmInstr i

/-- The event lines (R110); the other inputs have no line of their own. -/
def asmEvent : Input → Option String
  | .tick => some "!tick"
  | .tmrClk => some "!tmrclk"
  | .syncP k v => some ("!syncp " ++ toString k ++ ", " ++ toString v)
  | .syncC k v => some ("!syncc " ++ toString k ++ ", " ++ toString v)
  | .reset => some "!reset"
  | .command _ _ => none
  | .busWrite _ _ _ => none
  | .busRead _ _ => none

/-- The pseudo-instructions (R111). -/
inductive Pseudo where
  | nop
  | schOnce (d : BitVec 12)
  | tmrStart (r : BitVec 16)
  | tmrStop
  | fvFrame (port : Byte) (bs : List Byte)
  | fvQuery (port : Byte)
  | fvStatus
  deriving DecidableEq, Repr

/-- The bytes of a service frame before its checksum: header, Length, port, data (R211). -/
def frameBody (c : Cfg) (port : Byte) (bs : List Byte) : List Byte :=
  c.svcHeader :: BitVec.ofNat 8 (bs.length + 1) :: port :: bs

/-- A service frame with its checksum (R211). -/
def frameBytes (c : Cfg) (port : Byte) (bs : List Byte) : List Byte :=
  frameBody c port bs ++ [crc8 (frameBody c port bs)]

/-- The port on which a pseudo-instruction's commands are issued (R111). -/
def pseudoPort : Pseudo → Port
  | .nop => .host
  | .schOnce _ => .host
  | .tmrStart _ => .host
  | .tmrStop => .host
  | .fvFrame _ _ => .transport
  | .fvQuery _ => .transport
  | .fvStatus => .transport

/-- The commands a pseudo-instruction expands to, in order (R111). -/
def expand (c : Cfg) : Pseudo → List Instr
  | .nop => [.csrRead 0x00#8]
  | .schOnce d => [.schAdd d 0#12]
  | .tmrStart r => [.csrWrite 0x31#8 r, .csrWrite 0x30#8 1#16]
  | .tmrStop => [.csrWrite 0x30#8 0#16]
  | .fvFrame port bs => .fvXfer :: (frameBytes c port bs).map .fvRx ++ [.fvXfer]
  | .fvQuery port => [.fvXfer, .fvRx port, .fvXfer, .fvTx]
  | .fvStatus => [.fvXfer, .fvRx c.statusHeader, .fvXfer, .fvTx]

/-- The expansion as the inputs its agent issues (R111). -/
def pseudoInputs (c : Cfg) (x : Pseudo) : List Input :=
  (expand c x).map (fun i => .command (pseudoPort x) (encode i))

end Sys2Proof.Machine
end

