-- ==== Sys2Proof/Machine/Gray.lean ====
section
/-! DEFINITION. The gray-coded form of the cursors that a builder of an ASYNC ring uses (40_ringbuffer.md R137,
00_scope.md R14). No step rests on it: R134 and R135 abstract it. -/

namespace Sys2Proof.Machine

/-- `g = b XOR (b >> 1)` (R14, R137). -/
def gray (b : Nat) : Nat := b ^^^ (b >>> 1)

/-- The bits of a cursor of `AW + 1` bits that the gray full test inverts: the two most significant, or the only one
when `AW = 0` (R137). -/
def grayTopBits (aw : Nat) : Nat := if aw = 0 then 1 else 3 <<< (aw - 1)

/-- The full test on gray codes (R137). -/
def grayFull (aw head tailP : Nat) : Bool := gray head == (gray tailP ^^^ grayTopBits aw)

/-- The empty test on gray codes (R137). -/
def grayEmpty (headC tail : Nat) : Bool := gray headC == gray tail

end Sys2Proof.Machine
end

