-- ==== Sys2Proof/Safety.lean ====
section
/-! DEFINITION. The terms in which claims are stated: the invariants of every reachable state (10_state.md R34, R35;
20_memory.md R71; 42_service_table.md R191; 30_encoding.md R108), the queue a ring represents (20_memory.md R78), and
runs of several commands. Every predicate here is decidable, so that a concrete state can be shown to meet it. -/

namespace Sys2Proof.Machine

/-- Every table of the state has the size its configuration gives it (R30, R32, R36, R38). -/
abbrev Shaped (s : State) : Prop :=
  s.rb.length = s.cfg.rbCount ∧ s.svc.length = s.cfg.portCount ∧ s.sch.slots.length = s.cfg.slotCount ∧
    s.result.length = s.cfg.cmdPorts ∧ ∀ i < s.cfg.portCount, (svcAt s i).param.length = s.cfg.maxLen.toNat - 1

/-- The issuing port, a field of the model's own (log 3), is one of the block's command ports (R30). -/
abbrev PortKnown (s : State) : Prop := portExists s.cfg s.port = true

/-- The cursors are below `M` (R32) and keep R35; in SYNC clocking the copies equal the cursors (R34). -/
abbrev CursorsOk (c : RingCfg) (r : Ring) : Prop :=
  (r.head < c.modulus ∧ r.tail < c.modulus ∧ r.tailP < c.modulus ∧ r.headC < c.modulus) ∧
    subM c.modulus r.head r.tail ≤ c.cap ∧
    subM c.modulus r.tail r.tailP ≤ subM c.modulus r.head r.tailP ∧
    subM c.modulus r.head r.tailP ≤ c.cap ∧
    subM c.modulus r.headC r.tail ≤ subM c.modulus r.head r.tail ∧
    (c.clocking = .sync → r.tailP = r.tail ∧ r.headC = r.head)

/-- Every slot from `tail` to `head` has been written (R71). -/
abbrev ElementsWritten (s : State) (k : Nat) : Prop :=
  ∀ j < count s k, (storeGet (ringAt s k).mem (((ringAt s k).tail + j) % (s.cfg.ring k).cap)).isSome = true

/-- The invariants of every ring (R34, R35, R71). -/
abbrev RingsOk (s : State) : Prop :=
  ∀ k < s.cfg.rbCount, CursorsOk (s.cfg.ring k) (ringAt s k) ∧ ElementsWritten s k

/-- The invariants of the service table (R191). -/
abbrev ServicesOk (s : State) : Prop :=
  s.ssp.toNat ≤ s.cfg.portCount ∧
    ∀ i < s.cfg.portCount,
      ((svcAt s i).pending = true → (svcAt s i).reg = true) ∧
      ((svcAt s i).reg = false → (svcAt s i).plen = 0#8) ∧
      (svcAt s i).plen.toNat ≤ s.cfg.maxLen.toNat - 1

/-- The parser has taken the Length byte of a frame and not yet its checksum. -/
def midFrame (st : PState) : Bool := st == .port || st == .data || st == .checksum

/-- The invariants of the parser (R215, R216, R217, R71): legal Length, port indexes in range, and every data byte
received so far is in the frame buffer. -/
abbrev ParserOk (s : State) : Prop :=
  s.fv.qport.toNat < s.cfg.portCount ∧ s.fv.pidx.toNat < s.cfg.portCount ∧
    (midFrame s.fv.st = true → 1 ≤ s.fv.len.toNat ∧ s.fv.len.toNat ≤ s.cfg.maxLen.toNat) ∧
    (s.fv.st = .data → s.fv.cnt.toNat < s.fv.len.toNat - 1) ∧
    (s.fv.st = .checksum → s.fv.cnt.toNat = s.fv.len.toNat - 1) ∧
    (s.fv.st = .data ∨ s.fv.st = .checksum →
      ∀ j < s.fv.cnt.toNat, (storeGet s.fv.fbuf j).isSome = true)

/-- The invariants of the scheduler and timer (R39, R150, R151 to R155): scan state in range, an empty slot is all 0,
the in-flight slot is occupied. That the fields of an absent unit stay as RESET left them is the model's choice (log 12). -/
abbrev SchedulerOk (s : State) : Prop :=
  (s.cfg.hasSched = true →
    s.sch.sp.toNat ≤ s.cfg.nslots ∧ s.sch.ifslot.toNat < s.cfg.nslots ∧
      (s.sch.inflight = true → (slotAt s s.sch.ifslot.toNat).occ = true)) ∧
    (s.cfg.hasSched = false → s.sch = Sched.reset s.cfg) ∧
    (s.cfg.hasTimer = false → s.tmr = Timer.reset) ∧
    ∀ j < s.cfg.slotCount, (slotAt s j).occ = false → slotAt s j = Slot.empty

/-- The word is a result word of R108: a defined code, bits 23:16 zero, DATA 0 unless the code is RC_OK. -/
abbrev ResultWordOk (w : Word) : Prop :=
  (w.extractLsb' 24 8).toNat ≤ 0x0C ∧ w.extractLsb' 16 8 = 0#8 ∧
    (w.extractLsb' 24 8 ≠ 0x00#8 → w.extractLsb' 0 16 = 0#16)

/-- Every RESULT register holds a result word of R108. -/
abbrev ResultsOk (s : State) : Prop := s.result.all (fun w => decide (ResultWordOk w)) = true

/-- The invariant of every reachable state of a legal configuration. -/
abbrev Inv (s : State) : Prop :=
  s.cfg.wf = true ∧ Shaped s ∧ PortKnown s ∧ Memory.wf s = true ∧ RingsOk s ∧ ServicesOk s ∧ ParserOk s ∧
    SchedulerOk s ∧ ResultsOk s

/-- The elements ring `k` holds, oldest first: the queue it represents (R78). -/
def contents (s : State) (k : Nat) : List Half :=
  (List.range (count s k)).map (fun j => memRead s k (((ringAt s k).tail + j) % (s.cfg.ring k).cap))

/-- What one step may do to the queue a ring represents (R78, R139): nothing, append one element, take the oldest. -/
def QueueStep (a b : List Half) : Prop := b = a ∨ (∃ x, b = a ++ [x]) ∨ ∃ x, a = x :: b

/-- The tables have their sizes and the configuration is legal: the premise of statements about one command. -/
abbrev Ready (s : State) : Prop := s.cfg.wf = true ∧ Shaped s ∧ PortKnown s

/-- `respond(rc, data)` on the port that issued the command in `s`: that RESULT register, and no other, is written
(R12, R30). -/
def Answers (rc : ResultCode) (data : Half) (s t : State) : Prop :=
  resultAt t s.port = resultWord rc data ∧ ∀ p, p ≠ s.port → resultAt t p = resultAt s p

/-- The command answers and changes nothing else (R13, R270). -/
def OnlyAnswers (rc : ResultCode) (data : Half) (s t : State) : Prop :=
  t = s.withResult t.result ∧ Answers rc data s t

/-- Only ring `k` and the RESULT registers may differ. -/
def OnlyRing (k : Nat) (s t : State) : Prop :=
  t = (s.withRb t.rb).withResult t.result ∧ ∀ j, j ≠ k → ringAt t j = ringAt s j

/-- Only service port `i` and the RESULT registers may differ. -/
def OnlyPort (i : Nat) (s t : State) : Prop :=
  t = (s.withSvc t.svc).withResult t.result ∧ ∀ j, j ≠ i → svcAt t j = svcAt s j

/-- Only the parser and the RESULT registers may differ. -/
def OnlyParser (s t : State) : Prop := t = (s.withFv t.fv).withResult t.result

/-- Only task slot `j`, the scheduler's scan state and the RESULT registers may differ. -/
def OnlySlot (j : Nat) (s t : State) : Prop :=
  t = (s.withSch t.sch).withResult t.result ∧ ∀ i, i ≠ j → slotAt t i = slotAt s i

/-- The dispatch scan state is unchanged. -/
def SameScan (s t : State) : Prop :=
  t.sch.sp = s.sch.sp ∧ t.sch.inflight = s.sch.inflight ∧ t.sch.ifslot = s.sch.ifslot

/-- What one TICK makes of a slot `x` (R153): an empty slot is untouched; with delay 0 it gains a run, up to 255, and a
periodic task reloads its delay; otherwise the delay counts down. -/
def SlotTicked (x y : Slot) : Prop :=
  if x.occ = false then y = x
  else if x.delay = 0#12 then
    y.run.toNat = min (x.run.toNat + 1) 255 ∧
      y = { x with run := y.run, delay := if x.period = 0#12 then 0#12 else x.period - 1#12 }
  else y = { x with delay := x.delay - 1#12 }

/-- Every slot, and no scan state, is as one TICK makes it (R153). -/
def SlotsTicked (s t : State) : Prop := SameScan s t ∧ ∀ j < s.cfg.nslots, SlotTicked (slotAt s j) (slotAt t j)

/-- Run commands one after the other on the issuing port of the state, stopping at the first that does not answer a
next state. -/
def execAll : List Instr → State → Out
  | [], s => .next s
  | i :: is, s =>
    match exec i s with
    | .next t => execAll is t
    | .fault r => .fault r
    | .refused r => .refused r

end Sys2Proof.Machine
end

