-- ==== Sys2Proof/Certificates/Slice0/Obligations.lean ====
section
/-! DEFINITION. The statements for the provers, each about the machine and none about a program. A rule R<n> in a
docstring is the numbered rule of spec/ the statement formalises or rests on. -/

open Sys2Proof Sys2Proof.Machine

/-! ## Encoding (30_encoding.md) -/

/-- Decoding and encoding agree (R100, R102, R107): decoding the encoding of any command gives it back, for every value
of every operand, and a word that decodes is the encoding of what it decodes to, so no bit of a legal word is dropped.
-/
def Obligations.DecodeAndEncodeAgree : Prop :=
  (∀ i : Instr, decode (encode i) = .ok i) ∧ ∀ (w : Word) (i : Instr), decode w = .ok i → encode i = w

/-- R103: a word selects a row iff it matches under the row's mask; the decoder reads the command of that row, and a
word that selects no row is illegal. -/
def Obligations.DecoderFollowsOpcodeTable : Prop :=
  ∀ w : Word,
    (∀ i, decode w = .ok i → ∃ r ∈ opcodeRows, r.mnemonic = mnemonicOf i ∧ w &&& r.mask = r.value) ∧
      ∀ r ∈ opcodeRows, w &&& r.mask = r.value → ∃ i, decode w = .ok i ∧ mnemonicOf i = r.mnemonic

/-- Words written out from R102 decode to the command they stand for, one of each of the 21 commands. -/
def Obligations.WrittenWordsDecode : Prop :=
  decode 0x00001234#32 = .ok (.rbPush 0#8 0x1234#16) ∧ decode 0x01000000#32 = .ok (.rbPop 0#8) ∧
    decode 0x02000000#32 = .ok (.rbLen 0#8) ∧ decode 0x100000A5#32 = .ok (.fvRx 0xA5#8) ∧
    decode 0x11000000#32 = .ok .fvTx ∧ decode 0x12000000#32 = .ok .fvXfer ∧
    decode 0x20110002#32 = .ok (.svcReg 0x11#8 2#8) ∧ decode 0x21110000#32 = .ok (.svcDel 0x11#8) ∧
    decode 0x22120000#32 = .ok (.svcIsreg 0x12#8) ∧ decode 0x23130000#32 = .ok (.svcPlen 0x13#8) ∧
    decode 0x24000000#32 = .ok .svcNext ∧ decode 0x25110001#32 = .ok (.svcRdparam 0x11#8 1#8) ∧
    decode 0x26110042#32 = .ok (.svcDone 0x11#8 0x42#8) ∧ decode 0x27100000#32 = .ok (.svcResp 0x10#8) ∧
    decode 0x30123456#32 = .ok (.schAdd 0x123#12 0x456#12) ∧ decode 0x31030000#32 = .ok (.schDel 3#8) ∧
    decode 0x32000000#32 = .ok .schNext ∧ decode 0x33010000#32 = .ok (.schDone 1#8) ∧
    decode 0x34020003#32 = .ok (.schRdslot 2#8 3#2) ∧ decode 0x40400000#32 = .ok (.csrRead 0x40#8) ∧
    decode 0x413103E7#32 = .ok (.csrWrite 0x31#8 0x3E7#16)

/-! ## Taking commands (30_encoding.md R103 to R106, 60_exceptions.md R270) -/

/-- A step whose input is a decodable command on an existing port runs exactly that command on that port (R106). The
fields `inbox` and `port` are the model's own (log 3). -/
def Obligations.StepRunsDecodedCommand : Prop :=
  ∀ (s : State) (p : Port) (w : Word) (i : Instr) (rest : List Input),
    s.cfg.wf = true → s.inbox = .command p w :: rest → portExists s.cfg p = true → decode w = .ok i →
      step s = exec i ((s.withInbox rest).withPort p)

/-- R104: a word that selects no row is answered RC_ILLEGAL on any port and changes no other state. -/
def Obligations.UnselectedWordIsIllegal : Prop :=
  ∀ (s : State) (p : Port) (w : Word) (rest : List Input),
    s.cfg.wf = true → Shaped s → s.inbox = .command p w :: rest → portExists s.cfg p = true →
      (∀ r ∈ opcodeRows, w &&& r.mask ≠ r.value) →
        ∃ t, step s = .next t ∧ OnlyAnswers .illegal 0#16 ((s.withInbox rest).withPort p) t

/-- The port legality table of R105: a command issued on another port is answered RC_ILLEGAL and nothing else changes.
An RB command of a ring that does not exist, and an SCH command without a scheduler, are illegal on every port. -/
def Obligations.WrongPortIsIllegal : Prop :=
  ∀ (s : State) (i : Instr), Ready s →
    (match i with
      | .rbPush k _ => ¬ (s.port = .producer k.toNat ∧ k.toNat < s.cfg.rbCount)
      | .rbPop k => ¬ (s.port = .consumer k.toNat ∧ k.toNat < s.cfg.rbCount)
      | .rbLen k => ¬ ((s.port = .producer k.toNat ∨ s.port = .consumer k.toNat) ∧ k.toNat < s.cfg.rbCount)
      | .fvRx _ | .fvTx | .fvXfer => s.port ≠ .transport
      | .svcReg _ _ | .svcDel _ | .svcIsreg _ | .svcPlen _ | .svcNext | .svcRdparam _ _ | .svcDone _ _ | .svcResp _ =>
        s.port ≠ .host
      | .schAdd _ _ | .schDel _ | .schNext | .schDone _ | .schRdslot _ _ =>
        ¬ (s.port = .host ∧ s.cfg.hasSched = true)
      | .csrRead _ | .csrWrite _ _ => s.port ≠ .host) →
      ∃ t, exec i s = .next t ∧ OnlyAnswers .illegal 0#16 s t

/-- R270: no command aborts, hangs or waits. Any 32-bit word on any port of the block is answered in one step, which
takes that command from the order of steps and no other. -/
def Obligations.EveryCommandCompletes : Prop :=
  ∀ (s : State) (p : Port) (w : Word) (rest : List Input),
    s.cfg.wf = true → s.inbox = .command p w :: rest → portExists s.cfg p = true →
      ∃ t, step s = .next t ∧ t.inbox = rest ∧ t.port = p

/-- Each unit's commands change that unit's state only (R70, R81, R277): rings by RB (`head` of
ring k by PRODUCER(k) only, `tail` by CONSUMER(k) only), the parser by FV, the scheduler by SCH, the timer by CSR_WRITE,
the service table by SVC and FV_RX. No command changes the configuration. -/
def Obligations.CommandsStayInTheirUnit : Prop :=
  ∀ (i : Instr) (s t : State), exec i s = .next t →
    (t.cfg = s.cfg ∧ t.inbox = s.inbox ∧ t.port = s.port ∧ t.bus = s.bus ∧ t.epoch = s.epoch) ∧
      (∀ k, (ringAt t k).head ≠ (ringAt s k).head → s.port = .producer k ∧ ∃ a d, i = .rbPush a d) ∧
      (∀ k, (ringAt t k).tail ≠ (ringAt s k).tail → s.port = .consumer k ∧ ∃ a, i = .rbPop a) ∧
      (t.rb ≠ s.rb → (∃ a d, i = .rbPush a d) ∨ ∃ a, i = .rbPop a) ∧
      (t.fv ≠ s.fv → s.port = .transport ∧ ((∃ b, i = .fvRx b) ∨ i = .fvXfer)) ∧
      (t.svc ≠ s.svc → (s.port = .transport ∧ ∃ b, i = .fvRx b) ∨
        (s.port = .host ∧ ((∃ a n, i = .svcReg a n) ∨ (∃ a, i = .svcDel a) ∨ ∃ a v, i = .svcDone a v))) ∧
      (t.ssp ≠ s.ssp → s.port = .host ∧ i = .svcNext) ∧
      (t.sch ≠ s.sch → s.port = .host ∧
        ((∃ d p, i = .schAdd d p) ∨ (∃ h, i = .schDel h) ∨ i = .schNext ∨ ∃ h, i = .schDone h)) ∧
      (t.tmr ≠ s.tmr → s.port = .host ∧ ∃ n v, i = .csrWrite n v)

/-! ## Ring buffers (40_ringbuffer.md) -/

/-- R131, RB_PUSH on PRODUCER(k): when full it answers RC_FULL and changes nothing; else it stores the element (`D[7:0]`
zero-extended for width 8, D for width 16) at slot `head mod CAP`, advances `head` (and `head_c` in SYNC clocking) and
answers RC_OK. -/
def Obligations.RbPushStoresAtHead : Prop :=
  ∀ (s : State) (k : BitVec 8) (d : Half), Ready s → k.toNat < s.cfg.rbCount → s.port = .producer k.toNat →
    ∃ t, exec (.rbPush k d) s = .next t ∧
      (let c := s.cfg.ring k.toNat
       let r := ringAt s k.toNat
       let r' := ringAt t k.toNat
       if subM c.modulus r.head r.tailP = c.cap then OnlyAnswers .full 0#16 s t
       else
        Answers .ok 0#16 s t ∧ OnlyRing k.toNat s t ∧
          r'.head = (r.head + 1) % c.modulus ∧
          r'.headC = (if c.clocking = .sync then (r.head + 1) % c.modulus else r.headC) ∧
          r'.tail = r.tail ∧ r'.tailP = r.tailP ∧
          memRead t k.toNat (r.head % c.cap) =
            (match c.width with
              | .w8 => (d.extractLsb' 0 8).setWidth 16
              | .w16 => d) ∧
          ∀ i, i ≠ r.head % c.cap → memRead t k.toNat i = memRead s k.toNat i)

/-- R132, RB_POP on CONSUMER(k): when empty it answers RC_EMPTY and changes nothing; else it answers the element at slot
`tail mod CAP` and advances `tail` (and `tail_p` in SYNC clocking); the storage is unchanged. -/
def Obligations.RbPopReadsAtTail : Prop :=
  ∀ (s : State) (k : BitVec 8), Ready s → k.toNat < s.cfg.rbCount → s.port = .consumer k.toNat →
    ∃ t, exec (.rbPop k) s = .next t ∧
      (let c := s.cfg.ring k.toNat
       let r := ringAt s k.toNat
       let r' := ringAt t k.toNat
       if subM c.modulus r.headC r.tail = 0 then OnlyAnswers .empty 0#16 s t
       else
        Answers .ok (memRead s k.toNat (r.tail % c.cap)) s t ∧ OnlyRing k.toNat s t ∧
          r'.tail = (r.tail + 1) % c.modulus ∧
          r'.tailP = (if c.clocking = .sync then (r.tail + 1) % c.modulus else r.tailP) ∧
          r'.head = r.head ∧ r'.headC = r.headC ∧
          ∀ i, memRead t k.toNat i = memRead s k.toNat i)

/-- R133, RB_LEN: PRODUCER(k) reads `head -_M tail_p`, CONSUMER(k) reads `head_c -_M tail`; nothing else changes. -/
def Obligations.RbLenReadsOwnSide : Prop :=
  ∀ (s : State) (k : BitVec 8), Ready s → k.toNat < s.cfg.rbCount →
    (s.port = .producer k.toNat → ∃ t, exec (.rbLen k) s = .next t ∧
      OnlyAnswers .ok (BitVec.ofNat 16
        (subM (s.cfg.ring k.toNat).modulus (ringAt s k.toNat).head (ringAt s k.toNat).tailP)) s t) ∧
    (s.port = .consumer k.toNat → ∃ t, exec (.rbLen k) s = .next t ∧
      OnlyAnswers .ok (BitVec.ofNat 16
        (subM (s.cfg.ring k.toNat).modulus (ringAt s k.toNat).headC (ringAt s k.toNat).tail)) s t)

/-- R78, R139 (a): a push answered RC_OK appends the element, truncated to WIDTH (`D[7:0]` zero-extended for width 8, D
for width 16: R107), to the queue ring `k` represents, which never exceeds CAP; a pop answered RC_OK answers and removes
the oldest element. -/
def Obligations.PushAppendsAndPopTakesOldest : Prop :=
  ∀ (s t : State) (k : BitVec 8) (d : Half), Inv s → k.toNat < s.cfg.rbCount →
    let c := s.cfg.ring k.toNat
    let r := ringAt s k.toNat
    (s.port = .producer k.toNat → subM c.modulus r.head r.tailP ≠ c.cap → exec (.rbPush k d) s = .next t →
      contents t k.toNat = contents s k.toNat ++
          [match c.width with
            | .w8 => (d.extractLsb' 0 8).setWidth 16
            | .w16 => d] ∧
        (contents t k.toNat).length ≤ c.cap) ∧
    (s.port = .consumer k.toNat → subM c.modulus r.headC r.tail ≠ 0 → exec (.rbPop k) s = .next t →
      ∃ x, contents s k.toNat = x :: contents t k.toNat ∧ resultAt t s.port = resultWord .ok x)

/-- R78, R139 (a): a ring is a FIFO under every step of every agent but RESET: the queue stays, gets one element at the
end, or loses its oldest element. -/
def Obligations.EveryStepIsAQueueStep : Prop :=
  ∀ (s t : State) (k : Nat), Inv s → k < s.cfg.rbCount → s.inbox.head? ≠ some .reset → step s = .next t →
    QueueStep (contents s k) (contents t k)

/-- R134, R135, SYNC_P and SYNC_C: enabled for an ASYNC ring and a cursor value from the copy to the real cursor,
cyclically; then the copy becomes that value and nothing else changes. Where it is not enabled the event does not occur:
the model refuses it by name (log 7). -/
def Obligations.SynchronisersSampleCursors : Prop :=
  ∀ (s : State) (k v : Nat) (rest : List Input), Ready s → k < s.cfg.rbCount → v < (s.cfg.ring k).modulus →
    let c := s.cfg.ring k
    let r := ringAt s k
    (s.inbox = .syncP k v :: rest →
      if c.clocking = .async ∧ subM c.modulus v r.tailP ≤ subM c.modulus r.tail r.tailP then
        ∃ t, step s = .next t ∧ t = (s.withInbox rest).withRb t.rb ∧ (∀ j, j ≠ k → ringAt t j = ringAt s j) ∧
          ringAt t k = { r with tailP := v }
      else step s = .refused (.eventNotEnabled (.syncP k v))) ∧
    (s.inbox = .syncC k v :: rest →
      if c.clocking = .async ∧ subM c.modulus v r.headC ≤ subM c.modulus r.head r.headC then
        ∃ t, step s = .next t ∧ t = (s.withInbox rest).withRb t.rb ∧ (∀ j, j ≠ k → ringAt t j = ringAt s j) ∧
          ringAt t k = { r with headC := v }
      else step s = .refused (.eventNotEnabled (.syncC k v)))

/-- R137: for cursors below `M`, the full test on gray codes `g = b XOR (b >> 1)`, the two top bits of one of them
inverted (the only bit when `AW = 0`), is the full test on counts, and the empty test likewise. `CAP = 2^AW`,
`M = 2^(AW+1)`, and `-_M` is the remainder of the difference modulo M (R11, R32). -/
def Obligations.GrayTestsAgreeWithCounts : Prop :=
  ∀ (c : RingCfg) (a b : Nat), a < c.modulus → b < c.modulus →
    let g := fun n : Nat => n ^^^ (n >>> 1)
    (c.cap = 2 ^ c.aw ∧ c.modulus = 2 ^ (c.aw + 1) ∧
      ((subM c.modulus a b : Nat) : Int) = ((a : Int) - (b : Int)) % (c.modulus : Int)) ∧
      ((grayFull c.aw a b = true ↔ g a = (g b ^^^ (if c.aw = 0 then 1 else 2 ^ c.aw + 2 ^ (c.aw - 1)))) ∧
        (grayEmpty a b = true ↔ g a = g b)) ∧
      (grayFull c.aw a b = true ↔ subM c.modulus a b = c.cap) ∧ (grayEmpty a b = true ↔ subM c.modulus a b = 0)

/-! ## Service table (42_service_table.md) -/

/-- R180: every SVC command with a port operand answers RC_INVALID_PORT, and changes nothing else, when the port ID is
outside `[PORT_BASE, PORT_BASE + PORT_COUNT)`. -/
def Obligations.PortIdOutOfRangeIsRefused : Prop :=
  ∀ (s : State) (a x : Byte), Ready s → s.port = .host →
    ¬ (s.cfg.portBase.toNat ≤ a.toNat ∧ a.toNat < s.cfg.portBase.toNat + s.cfg.portCount) →
      ∀ i ∈ [Instr.svcReg a x, .svcDel a, .svcIsreg a, .svcPlen a, .svcRdparam a x, .svcDone a x, .svcResp a],
        ∃ t, exec i s = .next t ∧ OnlyAnswers .invalidPort 0#16 s t

/-- R181, SVC_REG on the port with index i. -/
def Obligations.SvcRegRegisters : Prop :=
  ∀ (s : State) (a n : Byte) (i : Nat), Ready s → s.port = .host → i < s.cfg.portCount →
    a.toNat = s.cfg.portBase.toNat + i →
      ∃ t, exec (.svcReg a n) s = .next t ∧
        (if (svcAt s i).reg = true then OnlyAnswers .alreadyRegistered 0#16 s t
         else if s.cfg.maxLen.toNat - 1 < n.toNat then OnlyAnswers .invalidLen 0#16 s t
         else
          Answers .ok 0#16 s t ∧ OnlyPort i s t ∧ (svcAt t i).reg = true ∧ (svcAt t i).plen = n ∧
            (svcAt t i).pending = false ∧ (svcAt t i).resp = s.cfg.ws.unknown ∧
            (svcAt t i).param.length = s.cfg.maxLen.toNat - 1 ∧ ∀ j, (svcAt t i).param.getD j 0#8 = 0#8)

/-- R182, SVC_DEL on the port with index i: registration, length and pending bit are cleared, the rest is kept. -/
def Obligations.SvcDelClears : Prop :=
  ∀ (s : State) (a : Byte) (i : Nat), Ready s → s.port = .host → i < s.cfg.portCount →
    a.toNat = s.cfg.portBase.toNat + i →
      ∃ t, exec (.svcDel a) s = .next t ∧ Answers .ok 0#16 s t ∧ OnlyPort i s t ∧
        svcAt t i = { svcAt s i with reg := false, plen := 0#8, pending := false }

/-- R183, R184, R190: SVC_ISREG, SVC_PLEN and SVC_RESP answer the field they query, on registered and unregistered
ports, and change nothing else. -/
def Obligations.SvcQueriesReadTheTable : Prop :=
  ∀ (s : State) (a : Byte) (i : Nat), Ready s → s.port = .host → i < s.cfg.portCount →
    a.toNat = s.cfg.portBase.toNat + i →
      (∃ t, exec (.svcIsreg a) s = .next t ∧ OnlyAnswers .ok (if (svcAt s i).reg then 1#16 else 0#16) s t) ∧
        (∃ t, exec (.svcPlen a) s = .next t ∧ OnlyAnswers .ok ((svcAt s i).plen.setWidth 16) s t) ∧
        ∃ t, exec (.svcResp a) s = .next t ∧ OnlyAnswers .ok ((svcAt s i).resp.setWidth 16) s t

/-- R186, SVC_NEXT: the lowest pending port at or above the scan position is handed out and the scan moves past it; with
none the pass ends with RC_NONE and the scan rewinds. No pending bit changes. -/
def Obligations.SvcNextScansInPortOrder : Prop :=
  ∀ s : State, Ready s → s.port = .host →
    ∃ t, exec .svcNext s = .next t ∧ t = (s.withSsp t.ssp).withResult t.result ∧
      (if ∀ i < s.cfg.portCount, s.ssp.toNat ≤ i → (svcAt s i).pending = false then
        Answers .none 0#16 s t ∧ t.ssp = 0#5
       else
        ∃ i < s.cfg.portCount, s.ssp.toNat ≤ i ∧ (svcAt s i).pending = true ∧
          (∀ j < i, s.ssp.toNat ≤ j → (svcAt s j).pending = false) ∧ t.ssp.toNat = i + 1 ∧
          Answers .ok (BitVec.ofNat 16 (s.cfg.portBase.toNat + i)) s t)

/-- R187, SVC_RDPARAM on the port with index i. -/
def Obligations.SvcRdparamReadsOneByte : Prop :=
  ∀ (s : State) (a j : Byte) (i : Nat), Ready s → s.port = .host → i < s.cfg.portCount →
    a.toNat = s.cfg.portBase.toNat + i →
      ∃ t, exec (.svcRdparam a j) s = .next t ∧
        (if (svcAt s i).reg = false then OnlyAnswers .invalidService 0#16 s t
         else if (svcAt s i).plen.toNat ≤ j.toNat then OnlyAnswers .invalidIndex 0#16 s t
         else OnlyAnswers .ok (((svcAt s i).param.getD j.toNat 0#8).setWidth 16) s t)

/-- R189, SVC_DONE on the port with index i: a pending invocation ends and its response is stored. -/
def Obligations.SvcDoneStoresResponse : Prop :=
  ∀ (s : State) (a v : Byte) (i : Nat), Ready s → s.port = .host → i < s.cfg.portCount →
    a.toNat = s.cfg.portBase.toNat + i →
      ∃ t, exec (.svcDone a v) s = .next t ∧
        (if (svcAt s i).pending = false then OnlyAnswers .seqError 0#16 s t
         else
          Answers .ok 0#16 s t ∧ OnlyPort i s t ∧ svcAt t i = { svcAt s i with resp := v, pending := false })

/-- R82, R188, busy guard: while a port is pending, no step but RESET, and no command but SVC_DONE or SVC_DEL of that
port from HOST, clears its pending bit or changes its parameter bytes. -/
def Obligations.PendingPortIsGuarded : Prop :=
  ∀ (s t : State) (i : Nat), Inv s → i < s.cfg.portCount → (svcAt s i).pending = true → step s = .next t →
    s.inbox.head? ≠ some .reset →
      ((svcAt t i).pending = true ∧ (svcAt t i).param = (svcAt s i).param ∧ (svcAt t i).plen = (svcAt s i).plen) ∨
        (t.port = .host ∧ ∃ a w, a.toNat = s.cfg.portBase.toNat + i ∧
          (decode w = .ok (.svcDel a) ∨ ∃ v, decode w = .ok (.svcDone a v)) ∧
          (s.inbox.head? = some (.command .host w) ∨
            s.inbox.head? = some (.busWrite s.cfg.blockBase 4 w)))

/-! ## Frame validator (43_frame_validator.md) -/

/-- R214, FV_RX in HEADER, PORT_QUERY or STATUS_QUERY. -/
def Obligations.RxInHeaderStates : Prop :=
  ∀ (s : State) (b : Byte), Ready s → s.port = .transport →
    (s.fv.st = .header ∨ s.fv.st = .portQuery ∨ s.fv.st = .statusQuery) →
      ∃ t, exec (.fvRx b) s = .next t ∧ Answers .ok 0#16 s t ∧ OnlyParser s t ∧
        (if b = s.cfg.svcHeader then
          t.fv = { s.fv with crc := crc8Step 0xFF#8 b, len := 0#8, cnt := 0#8, st := .length }
         else if b = s.cfg.statusHeader then t.fv = { s.fv with st := .statusQuery }
         else if s.cfg.portBase.toNat ≤ b.toNat ∧ b.toNat < s.cfg.portBase.toNat + s.cfg.portCount ∧
            (svcAt s (b.toNat - s.cfg.portBase.toNat)).reg = true then
          t.fv = { s.fv with qport := BitVec.ofNat 4 (b.toNat - s.cfg.portBase.toNat), st := .portQuery } ∧
            t.fv.qport.toNat = b.toNat - s.cfg.portBase.toNat
         else t.fv = { s.fv with fstatus := s.cfg.ws.headerErr, st := .badFrame })

/-- R215, FV_RX in LENGTH. -/
def Obligations.RxInLength : Prop :=
  ∀ (s : State) (b : Byte), Ready s → s.port = .transport → s.fv.st = .length →
    ∃ t, exec (.fvRx b) s = .next t ∧ Answers .ok 0#16 s t ∧ OnlyParser s t ∧
      (if b = 0#8 ∨ s.cfg.maxLen.toNat < b.toNat then
        t.fv = { s.fv with crc := crc8Step s.fv.crc b, fstatus := s.cfg.ws.sizeErr, st := .badFrame }
       else t.fv = { s.fv with crc := crc8Step s.fv.crc b, len := b, st := .port })

/-- R216, FV_RX in PORT: range, then registration, then parameter length. -/
def Obligations.RxInPort : Prop :=
  ∀ (s : State) (b : Byte), Ready s → s.port = .transport → s.fv.st = .port →
    ∃ t, exec (.fvRx b) s = .next t ∧ Answers .ok 0#16 s t ∧ OnlyParser s t ∧
      (let i := b.toNat - s.cfg.portBase.toNat
       let fv := { s.fv with crc := crc8Step s.fv.crc b }
       if ¬ (s.cfg.portBase.toNat ≤ b.toNat ∧ b.toNat < s.cfg.portBase.toNat + s.cfg.portCount) then
        t.fv = { fv with fstatus := s.cfg.ws.portErr, st := .badFrame }
       else if (svcAt s i).reg = false then t.fv = { fv with fstatus := s.cfg.ws.serviceErr, st := .badFrame }
       else if (svcAt s i).plen ≠ s.fv.len - 1#8 then
        t.fv = { fv with fstatus := s.cfg.ws.paramErr, st := .badFrame }
       else
        t.fv = { fv with
          pidx := BitVec.ofNat 4 i, cnt := 0#8, st := if s.fv.len = 1#8 then .checksum else .data } ∧
          t.fv.pidx.toNat = i)

/-- R217, FV_RX in DATA: the byte is stored at `cnt`; the parser moves to CHECKSUM with the last declared byte. -/
def Obligations.RxInData : Prop :=
  ∀ (s : State) (b : Byte), Ready s → s.port = .transport → s.fv.st = .data →
    ∃ t, exec (.fvRx b) s = .next t ∧ Answers .ok 0#16 s t ∧ OnlyParser s t ∧
      t.fv = { s.fv with
        fbuf := t.fv.fbuf, crc := crc8Step s.fv.crc b, cnt := s.fv.cnt + 1#8,
        st := if s.fv.cnt + 1#8 = s.fv.len - 1#8 then .checksum else .data } ∧
      fbufRead t s.fv.cnt.toNat = b ∧ ∀ j, j ≠ s.fv.cnt.toNat → fbufRead t j = fbufRead s j

/-- R218, R220, FV_RX in CHECKSUM: a wrong checksum is an error; a right one commits the frame to port index `pidx`,
after the registration checks and the busy guard. -/
def Obligations.RxInChecksum : Prop :=
  ∀ (s : State) (b : Byte), Ready s → s.port = .transport → s.fv.st = .checksum →
    s.fv.pidx.toNat < s.cfg.portCount →
      ∃ t, exec (.fvRx b) s = .next t ∧ Answers .ok 0#16 s t ∧
        (let i := s.fv.pidx.toNat
         let n := s.fv.len - 1#8
         if b ≠ s.fv.crc then
          OnlyParser s t ∧ t.fv = { s.fv with fstatus := s.cfg.ws.checksumErr, st := .badFrame }
         else if (svcAt s i).reg = false then
          OnlyParser s t ∧ t.fv = { s.fv with fstatus := s.cfg.ws.serviceErr, st := .badFrame }
         else if (svcAt s i).plen ≠ n then
          OnlyParser s t ∧ t.fv = { s.fv with fstatus := s.cfg.ws.paramErr, st := .badFrame }
         else if (svcAt s i).pending = true then
          OnlyParser s t ∧ t.fv = { s.fv with fstatus := s.cfg.ws.busy, st := .header }
         else
          t = ((s.withSvc t.svc).withFv t.fv).withResult t.result ∧
            t.fv = { s.fv with fstatus := s.cfg.ws.ok, st := .header } ∧
            (∀ j, j ≠ i → svcAt t j = svcAt s j) ∧
            svcAt t i = { svcAt s i with param := (svcAt t i).param, pending := true } ∧
            (∀ j < n.toNat, (svcAt t i).param.getD j 0#8 = fbufRead s j) ∧
            ∀ j, n.toNat ≤ j → (svcAt t i).param.getD j 0#8 = (svcAt s i).param.getD j 0#8)

/-- R219: in BAD_FRAME a received byte changes nothing but RESULT; only FV_XFER (or RESET) leaves the state, whatever
the step, and FV_XFER reaches the block as a command of TRANSPORT or as a write to its CMD register. -/
def Obligations.OnlyTransferLeavesBadFrame : Prop :=
  (∀ (s : State) (b : Byte), Ready s → s.port = .transport → s.fv.st = .badFrame →
    ∃ t, exec (.fvRx b) s = .next t ∧ OnlyAnswers .ok 0#16 s t) ∧
  ∀ s t : State, s.fv.st = .badFrame → step s = .next t → t.fv.st ≠ .badFrame →
    s.inbox.head? = some .reset ∨
      (t.port = .transport ∧
        (s.inbox.head? = some (.command .transport 0x12000000#32) ∨
          s.inbox.head? = some (.busWrite (s.cfg.blockBase + 8) 4 0x12000000#32)))

/-- R222, FV_TX: the byte sent depends on the parser state; no state but RESULT changes. -/
def Obligations.FvTxSendsTheAnswer : Prop :=
  ∀ s : State, Ready s → s.port = .transport →
    ∃ t, exec .fvTx s = .next t ∧
      (if s.fv.st = .portQuery then OnlyAnswers .ok ((svcAt s s.fv.qport.toNat).resp.setWidth 16) s t
       else if s.fv.st = .statusQuery then OnlyAnswers .ok (s.fv.fstatus.setWidth 16) s t
       else OnlyAnswers .ok (s.cfg.ws.unknown.setWidth 16) s t)

/-- R223, FV_XFER: recovery from BAD_FRAME, a frame cut short, or no change. -/
def Obligations.FvXferEndsTheFrame : Prop :=
  ∀ s : State, Ready s → s.port = .transport →
    ∃ t, exec .fvXfer s = .next t ∧ Answers .ok 0#16 s t ∧ OnlyParser s t ∧
      (if s.fv.st = .badFrame then t.fv = { s.fv with st := .header }
       else if s.fv.st = .header ∨ s.fv.st = .portQuery ∨ s.fv.st = .statusQuery then t.fv = s.fv
       else t.fv = { s.fv with fstatus := s.cfg.ws.sizeErr, st := .header })

/-- R211: the CRC starts at 0xFF and takes each byte in eight rounds of its polynomial 0x9B. R212 (a), (b): the
catalogue check value is 0xDA, and a byte string followed by a byte has residue 0 exactly when that byte is its CRC. -/
def Obligations.CrcResidueIsZero : Prop :=
  (∀ c b : Byte,
    crc8Step c b = (fun x : Byte => if x.getLsbD 7 then (x <<< 1) ^^^ 0x9B#8 else x <<< 1)^[8] (c ^^^ b)) ∧
    crc8 [] = 0xFF#8 ∧ (∀ (m : List Byte) (c : Byte), crc8 (m ++ [c]) = crc8Step (crc8 m) c) ∧
    crc8 [0x31#8, 0x32#8, 0x33#8, 0x34#8, 0x35#8, 0x36#8, 0x37#8, 0x38#8, 0x39#8] = 0xDA#8 ∧
    ∀ (m : List Byte) (c : Byte), crc8 (m ++ [c]) = 0#8 ↔ c = crc8 m

/-- R212 (d): changing any single byte of an accepted frame, checksum included, makes the checksum test fail. -/
def Obligations.CrcDetectsOneChangedByte : Prop :=
  ∀ (xs ys : List Byte) (b b' : Byte), b ≠ b' → crc8 (xs ++ b :: ys) = 0#8 → crc8 (xs ++ b' :: ys) ≠ 0#8

/-- R224 (a): a good frame (`SVC_HEADER`, Length, port, data bytes, and the CRC of these) for a registered, not pending
port of matching length, sent from HEADER, is accepted: the parser ends in HEADER with WS_OK, the port is pending and
holds the frame's data bytes; every other port, the rings, the scheduler and the timer are unchanged. -/
def Obligations.GoodFrameIsAccepted : Prop :=
  ∀ (s : State) (port : Byte) (i : Nat) (bs : List Byte), Ready s → s.port = .transport → s.fv.st = .header →
    i < s.cfg.portCount → port.toNat = s.cfg.portBase.toNat + i → (svcAt s i).reg = true →
    (svcAt s i).pending = false → (svcAt s i).plen.toNat = bs.length → bs.length + 1 ≤ s.cfg.maxLen.toNat →
      let body := s.cfg.svcHeader :: BitVec.ofNat 8 (bs.length + 1) :: port :: bs
      ∃ t, execAll ((body ++ [crc8 body]).map .fvRx) s = .next t ∧
        t.fv.st = .header ∧ t.fv.fstatus = s.cfg.ws.ok ∧ (svcAt t i).pending = true ∧
        (svcAt t i).reg = true ∧ (svcAt t i).plen = (svcAt s i).plen ∧ (svcAt t i).resp = (svcAt s i).resp ∧
        (svcAt t i).param.take bs.length = bs ∧ (∀ j, j ≠ i → svcAt t j = svcAt s j) ∧
        t.rb = s.rb ∧ t.sch = s.sch ∧ t.tmr = s.tmr ∧ t.ssp = s.ssp

/-- R224 (b): only the commit of a good frame writes the service table: a received byte that changes it was the checksum
byte, equal to the running CRC, and the frame was recorded as accepted; no other port's entry changes. -/
def Obligations.OnlyGoodFramesWriteTheTable : Prop :=
  ∀ (s t : State) (b : Byte), exec (.fvRx b) s = .next t → t.svc ≠ s.svc →
    s.port = .transport ∧ s.fv.st = .checksum ∧ b = s.fv.crc ∧ t.fv.st = .header ∧ t.fv.fstatus = s.cfg.ws.ok ∧
      ∀ j, j ≠ s.fv.pidx.toNat → svcAt t j = svcAt s j

/-! ## Scheduler and timer (41_scheduler.md) -/

/-- R151, SCH_ADD. -/
def Obligations.SchAddFillsLowestFreeSlot : Prop :=
  ∀ (s : State) (d p : BitVec 12), Ready s → s.port = .host → s.cfg.hasSched = true →
    ∃ t, exec (.schAdd d p) s = .next t ∧
      (if s.sch.inflight = true then OnlyAnswers .seqError 0#16 s t
       else if ∀ j < s.cfg.nslots, (slotAt s j).occ = true then OnlyAnswers .tableFull 0#16 s t
       else
        ∃ j < s.cfg.nslots, (slotAt s j).occ = false ∧ (∀ i < j, (slotAt s i).occ = true) ∧
          Answers .ok (BitVec.ofNat 16 j) s t ∧ OnlySlot j s t ∧ SameScan s t ∧
          (if d = 0#12 then
            slotAt t j = ⟨true, if p = 0#12 then 0#12 else p - 1#12, p, 1#8⟩
           else slotAt t j = ⟨true, d - 1#12, p, 0#8⟩))

/-- R152, SCH_DEL. -/
def Obligations.SchDelEmptiesSlot : Prop :=
  ∀ (s : State) (h : Byte), Ready s → s.port = .host → s.cfg.hasSched = true →
    ∃ t, exec (.schDel h) s = .next t ∧
      (if s.sch.inflight = true then OnlyAnswers .seqError 0#16 s t
       else if s.cfg.nslots ≤ h.toNat then OnlyAnswers .invalidHandle 0#16 s t
       else
        Answers .ok 0#16 s t ∧ OnlySlot h.toNat s t ∧ SameScan s t ∧ slotAt t h.toNat = ⟨false, 0#12, 0#12, 0#8⟩)

/-- R154, SCH_NEXT. -/
def Obligations.SchNextHandsOutLowestDue : Prop :=
  ∀ s : State, Ready s → s.port = .host → s.cfg.hasSched = true →
    ∃ t, exec .schNext s = .next t ∧
      (if s.sch.inflight = true then OnlyAnswers .seqError 0#16 s t
       else if ∀ j < s.cfg.nslots, s.sch.sp.toNat ≤ j → ¬ ((slotAt s j).occ = true ∧ 0 < (slotAt s j).run.toNat) then
        Answers .none 0#16 s t ∧ t = (s.withSch { s.sch with sp := 0#5 }).withResult t.result
       else
        ∃ j < s.cfg.nslots, s.sch.sp.toNat ≤ j ∧ (slotAt s j).occ = true ∧ 0 < (slotAt s j).run.toNat ∧
          (∀ i < j, s.sch.sp.toNat ≤ i → ¬ ((slotAt s i).occ = true ∧ 0 < (slotAt s i).run.toNat)) ∧
          Answers .ok (BitVec.ofNat 16 j) s t ∧ OnlySlot j s t ∧
          slotAt t j = { slotAt s j with run := (slotAt s j).run - 1#8 } ∧
          t.sch.sp.toNat = j + 1 ∧ t.sch.inflight = true ∧ t.sch.ifslot.toNat = j)

/-- R155, SCH_DONE. -/
def Obligations.SchDoneEndsTheRun : Prop :=
  ∀ (s : State) (h : Byte), Ready s → s.port = .host → s.cfg.hasSched = true →
    ∃ t, exec (.schDone h) s = .next t ∧
      (if s.cfg.nslots ≤ h.toNat then OnlyAnswers .invalidHandle 0#16 s t
       else if s.sch.inflight = false ∨ s.sch.ifslot.toNat ≠ h.toNat then OnlyAnswers .seqError 0#16 s t
       else
        Answers .ok 0#16 s t ∧ OnlySlot h.toNat s t ∧ t.sch.inflight = false ∧ t.sch.sp = s.sch.sp ∧
          t.sch.ifslot = s.sch.ifslot ∧
          (if (slotAt s h.toNat).period = 0#12 then slotAt t h.toNat = ⟨false, 0#12, 0#12, 0#8⟩
           else slotAt t h.toNat = slotAt s h.toNat))

/-- R156, SCH_RDSLOT: a pure query, in flight or not. -/
def Obligations.SchRdslotReadsOneField : Prop :=
  ∀ (s : State) (h : Byte) (sel : BitVec 2), Ready s → s.port = .host → s.cfg.hasSched = true →
    ∃ t, exec (.schRdslot h sel) s = .next t ∧
      (if s.cfg.nslots ≤ h.toNat then OnlyAnswers .invalidHandle 0#16 s t
       else if sel = 0#2 then OnlyAnswers .ok ((slotAt s h.toNat).delay.setWidth 16) s t
       else if sel = 1#2 then OnlyAnswers .ok ((slotAt s h.toNat).period.setWidth 16) s t
       else if sel = 2#2 then OnlyAnswers .ok ((slotAt s h.toNat).run.setWidth 16) s t
       else OnlyAnswers .ok (if (slotAt s h.toNat).occ then 1#16 else 0#16) s t)

/-- R153, TICK: every occupied slot counts, the run-count saturates at 255, an empty slot is untouched, and no RESULT,
scan state or other unit changes. The event is an input of its own where the block has no timer (R153, R161); with one,
TmrClkStep states the same effect of the expiry that performs it. -/
def Obligations.TickCountsEverySlot : Prop :=
  ∀ (s : State) (rest : List Input),
    Ready s → s.cfg.hasSched = true → s.cfg.hasTimer = false → s.inbox = .tick :: rest →
      ∃ t, step s = .next t ∧ t = (s.withInbox rest).withSch t.sch ∧ SlotsTicked s t

/-- R159, due times: `n` ticks after SCH_ADD (d, p) with no dispatch, the task has gained one run at tick d and one more
at every p-th tick after it (at every tick after it for a one-shot task, R153), up to 255. -/
def Obligations.TaskGainsRunsAtItsTicks : Prop :=
  ∀ (d p : BitVec 12) (n : Nat),
    let x := tickSlot^[n] (newTask d p)
    x.occ = true ∧ x.period = p ∧
      x.run.toNat = if n < d.toNat then 0 else min ((n - d.toNat) / max p.toNat 1 + 1) 255

/-- R160, the timer's period: from `count = n` the enabled timer counts down for n cycles and nothing else changes; the
next cycle reloads it and performs exactly one TICK. -/
def Obligations.TimerTicksOncePerPeriod : Prop :=
  ∀ (s : State) (m : Nat), s.tmr.en = true → m ≤ s.tmr.count.toNat →
    timerClock^[m] s = s.withTmr { s.tmr with count := s.tmr.count - BitVec.ofNat 16 m } ∧
      timerClock^[s.tmr.count.toNat + 1] s = tickAll (s.withTmr { s.tmr with count := s.tmr.reload })

/-- R160, TMR_CLK as a step: no effect while stopped, a count down, or an expiry that reloads the counter and performs
the TICK of R153 in the same step. Without a timer there is no TMR_CLK, and with a timer or without a scheduler no TICK
of its own (R10, R153, R161); that the model refuses such an input by name is its choice (log 7, log 10). -/
def Obligations.TmrClkStep : Prop :=
  ∀ (s : State) (rest : List Input), Ready s →
    (s.inbox = .tmrClk :: rest →
      let s1 := s.withInbox rest
      if s.cfg.hasTimer = false then step s = .refused (.eventNotEnabled .tmrClk)
      else if s.tmr.en = false then step s = .next s1
      else if s.tmr.count = 0#16 then
        ∃ t, step s = .next t ∧ t = (s1.withSch t.sch).withTmr { s.tmr with count := s.tmr.reload } ∧ SlotsTicked s t
      else step s = .next (s1.withTmr { s.tmr with count := s.tmr.count - 1#16 })) ∧
    (s.inbox = .tick :: rest → s.cfg.hasTimer = true ∨ s.cfg.hasSched = false →
      step s = .refused (.eventNotEnabled .tick))

/-! ## Control and status registers (44_csr.md) -/

/-- R250, R252, CSR_READ: the numbers of the CSR map whose unit is present are answered with the CSR's value, any other
number with RC_ILLEGAL; nothing else changes. -/
def Obligations.CsrReadAnswersTheMap : Prop :=
  ∀ (s : State) (n : Byte), Ready s → s.port = .host →
    ∃ t, exec (.csrRead n) s = .next t ∧
      (if n.toNat ∈ [0x00, 0x01, 0x02, 0x03, 0x40, 0x41, 0x42, 0x43] ∨
          (s.cfg.hasTimer = true ∧ n.toNat ∈ [0x30, 0x31, 0x32]) ∨
          (s.cfg.hasSched = true ∧ n.toNat ∈ [0x50, 0x51, 0x52]) ∨
          (0x10 ≤ n.toNat ∧ n.toNat < 0x10 + s.cfg.rbCount) ∨
          (0x20 ≤ n.toNat ∧ n.toNat < 0x20 + s.cfg.rbCount)
       then ∃ v, csrValue s n.toNat = some v ∧ OnlyAnswers .ok v s t
       else OnlyAnswers .illegal 0#16 s t)

/-- R253 to R264: every field of every CSR stands at the bits the rule gives it; the parser state in FVSTAT has the
codes of R37. -/
def Obligations.CsrFieldsAreInPlace : Prop :=
  ∀ (s : State) (k : Nat), s.cfg.wf = true → k < s.cfg.rbCount →
    (∃ v, csrValue s 0x00 = some v ∧ (v.extractLsb' 0 5).toNat = s.cfg.rbCount ∧ v.getLsbD 5 = s.cfg.hasSched ∧
      v.getLsbD 6 = s.cfg.hasTimer ∧ v.getLsbD 7 = false ∧
      (v.extractLsb' 8 5).toNat = (if s.cfg.hasSched then s.cfg.nslots else 0) ∧ v.extractLsb' 13 3 = 0#3) ∧
    (∃ v, csrValue s 0x01 = some v ∧ v.extractLsb' 0 8 = s.cfg.portBase ∧
      (v.extractLsb' 8 5).toNat = s.cfg.portCount ∧ v.extractLsb' 13 3 = 0#3) ∧
    (∃ v, csrValue s 0x02 = some v ∧ v.extractLsb' 0 8 = s.cfg.maxLen ∧ v.extractLsb' 8 8 = s.cfg.svcHeader) ∧
    (∃ v, csrValue s 0x03 = some v ∧ v.extractLsb' 0 8 = s.cfg.statusHeader ∧ v.extractLsb' 8 8 = 0#8) ∧
    (∃ v, csrValue s (0x10 + k) = some v ∧ (v.extractLsb' 0 4).toNat = (s.cfg.ring k).aw ∧
      v.getLsbD 4 = decide ((s.cfg.ring k).width = .w16) ∧ v.getLsbD 5 = decide ((s.cfg.ring k).clocking = .async) ∧
      v.extractLsb' 6 10 = 0#10) ∧
    (∃ v, csrValue s (0x20 + k) = some v ∧
      v.getLsbD 0 = decide (subM (s.cfg.ring k).modulus (ringAt s k).headC (ringAt s k).tail = 0) ∧
      v.getLsbD 1 = decide (subM (s.cfg.ring k).modulus (ringAt s k).head (ringAt s k).tailP = (s.cfg.ring k).cap) ∧
      v.extractLsb' 2 14 = 0#14) ∧
    (s.cfg.hasTimer = true →
      (∃ v, csrValue s 0x30 = some v ∧ v.getLsbD 0 = s.tmr.en ∧ v.extractLsb' 1 15 = 0#15) ∧
      csrValue s 0x31 = some s.tmr.reload ∧ csrValue s 0x32 = some s.tmr.count) ∧
    (∃ v, csrValue s 0x40 = some v ∧ v.extractLsb' 0 8 = s.fv.fstatus ∧
      v.extractLsb' 8 3 =
        (match s.fv.st with
          | .header => 0#3
          | .length => 1#3
          | .port => 2#3
          | .data => 3#3
          | .checksum => 4#3
          | .badFrame => 5#3
          | .portQuery => 6#3
          | .statusQuery => 7#3) ∧
      v.extractLsb' 11 4 = s.fv.qport ∧ v.getLsbD 15 = false) ∧
    (∃ v, csrValue s 0x41 = some v ∧
      ∀ i < 16, v.getLsbD i = (decide (i < s.cfg.portCount) && (svcAt s i).reg)) ∧
    (∃ v, csrValue s 0x42 = some v ∧
      ∀ i < 16, v.getLsbD i = (decide (i < s.cfg.portCount) && (svcAt s i).pending)) ∧
    (∃ v, csrValue s 0x43 = some v ∧ v.extractLsb' 0 5 = s.ssp ∧ v.extractLsb' 5 11 = 0#11) ∧
    (s.cfg.hasSched = true →
      (∃ v, csrValue s 0x50 = some v ∧
        ∀ j < 16, v.getLsbD j = (decide (j < s.cfg.nslots) && (slotAt s j).occ)) ∧
      (∃ v, csrValue s 0x51 = some v ∧
        ∀ j < 16, v.getLsbD j =
          (decide (j < s.cfg.nslots) && (slotAt s j).occ && decide (0 < (slotAt s j).run.toNat))) ∧
      ∃ v, csrValue s 0x52 = some v ∧ v.extractLsb' 0 5 = s.sch.sp ∧ v.extractLsb' 5 4 = s.sch.ifslot ∧
        v.getLsbD 9 = s.sch.inflight ∧ v.extractLsb' 10 6 = 0#6)

/-- R251, R257, R258, CSR_WRITE: only TMRCTRL and TMRRELOAD are writable, and only with a timer; enabling a stopped
timer loads `count` from `reload`; a write of the reload value does not change `count`. -/
def Obligations.CsrWriteSetsTheTimer : Prop :=
  ∀ (s : State) (n : Byte) (v : Half), Ready s → s.port = .host →
    ∃ t, exec (.csrWrite n v) s = .next t ∧
      (if n = 0x30#8 ∧ s.cfg.hasTimer = true then
        Answers .ok 0#16 s t ∧ t = (s.withTmr t.tmr).withResult t.result ∧ t.tmr.en = v.getLsbD 0 ∧
          t.tmr.reload = s.tmr.reload ∧
          t.tmr.count = if s.tmr.en = false ∧ v.getLsbD 0 = true then s.tmr.reload else s.tmr.count
       else if n = 0x31#8 ∧ s.cfg.hasTimer = true then
        Answers .ok 0#16 s t ∧ t = (s.withTmr { s.tmr with reload := v }).withResult t.result
       else OnlyAnswers .illegal 0#16 s t)

/-! ## Reset, configuration and the bus (00_scope.md R7, 20_memory.md R74, R76, 70_reset_and_hazards.md R300) -/

/-- R7: a configuration that violates a constraint is refused; nothing runs on it. That BLOCK_BASE is 8-byte aligned is
R76's; that every step on a refused configuration is refused by name is the model's choice (log 7). -/
def Obligations.IllegalConfigurationIsRefused : Prop :=
  ∀ s : State, (s.cfg.wf = false → step s = .refused .refusedConfiguration) ∧
    (s.cfg.wf = true ↔
      (1 ≤ s.cfg.rbCount ∧ s.cfg.rbCount ≤ 16 ∧ ∀ r ∈ s.cfg.rings, r.aw ≤ 15) ∧
        (s.cfg.hasSched = true → 1 ≤ s.cfg.nslots ∧ s.cfg.nslots ≤ 16) ∧
        (s.cfg.hasTimer = true → s.cfg.hasSched = true) ∧
        (1 ≤ s.cfg.portCount ∧ s.cfg.portCount ≤ 16 ∧ s.cfg.portBase.toNat + s.cfg.portCount ≤ 256) ∧
        1 ≤ s.cfg.maxLen.toNat ∧
        (s.cfg.svcHeader ≠ s.cfg.statusHeader ∧
          ∀ h, h = s.cfg.svcHeader ∨ h = s.cfg.statusHeader →
            ¬ (s.cfg.portBase.toNat ≤ h.toNat ∧ h.toNat < s.cfg.portBase.toNat + s.cfg.portCount)) ∧
        s.cfg.ws.toList.Nodup ∧ s.cfg.blockBase % 8 = 0)

/-- R300, RESET: every field takes its reset value, in one step, in every state; the configuration does not change.
That the later inputs stay in the model's own field `inbox` is the model's choice (log 9). Nothing is said of the
contents of ring storage and frame buffer, which R300 leaves unspecified. -/
def Obligations.ResetSetsEveryField : Prop :=
  ∀ (s : State) (rest : List Input), s.cfg.wf = true → s.inbox = .reset :: rest →
    ∃ t, step s = .next t ∧ t.cfg = s.cfg ∧ t.inbox = rest ∧ Shaped t ∧
      (∀ k < s.cfg.rbCount, (ringAt t k).head = 0 ∧ (ringAt t k).tail = 0 ∧ (ringAt t k).tailP = 0 ∧
        (ringAt t k).headC = 0) ∧
      (∀ i < s.cfg.portCount, (svcAt t i).reg = false ∧ (svcAt t i).plen = 0#8 ∧ (svcAt t i).pending = false ∧
        (svcAt t i).resp = s.cfg.ws.unknown ∧ ∀ j, (svcAt t i).param.getD j 0#8 = 0#8) ∧
      t.ssp = 0#5 ∧
      (t.fv.st = .header ∧ t.fv.qport = 0#4 ∧ t.fv.len = 0#8 ∧ t.fv.pidx = 0#4 ∧ t.fv.cnt = 0#8 ∧
        t.fv.crc = 0xFF#8 ∧ t.fv.fstatus = s.cfg.ws.unknown) ∧
      (∀ j, slotAt t j = ⟨false, 0#12, 0#12, 0#8⟩) ∧
      t.sch.sp = 0#5 ∧ t.sch.inflight = false ∧ t.sch.ifslot = 0#4 ∧
      t.tmr = ⟨false, 0#16, 0#16⟩ ∧ ∀ p, resultAt t p = 0#32

/-- R42: the level outputs in every state: `rb_ne_o[k]` iff `head_c -_M tail` is not 0, `rb_nf_o[k]` iff `head -_M
tail_p` is not CAP, `svc_pend_o` iff some port is pending, `task_due_o` iff there is a scheduler and some slot is due.
After RESET every ring is empty and not full, no service is pending and no task is due: that is R301, which the spec
derives from R300, R33 and R42. -/
def Obligations.OutputsAfterReset : Prop :=
  (∀ s : State, Ready s →
    (∀ k < s.cfg.rbCount,
      (rbNotEmptyOut s k = true ↔ subM (s.cfg.ring k).modulus (ringAt s k).headC (ringAt s k).tail ≠ 0) ∧
        (rbNotFullOut s k = true ↔
          subM (s.cfg.ring k).modulus (ringAt s k).head (ringAt s k).tailP ≠ (s.cfg.ring k).cap)) ∧
      (svcPendOut s = true ↔ ∃ i < s.cfg.portCount, (svcAt s i).pending = true) ∧
      (taskDueOut s = true ↔
        s.cfg.hasSched = true ∧ ∃ j < s.cfg.nslots, (slotAt s j).occ = true ∧ 0 < (slotAt s j).run.toNat)) ∧
  ∀ c : Cfg, c.wf = true →
    (∀ k < c.rbCount, rbNotEmptyOut (State.resetOf c) k = false ∧ rbNotFullOut (State.resetOf c) k = true) ∧
      svcPendOut (State.resetOf c) = false ∧ taskDueOut (State.resetOf c) = false

/-- R74: an access to a command-port window that is not an aligned 32-bit one performs no command, changes no state of
the block and is answered with the bus error, which the model's own field `bus` shows (log 5). -/
def Obligations.MisalignedAccessDoesNothing : Prop :=
  ∀ (s : State) (addr size : Nat) (data : Word) (rest : List Input), s.cfg.wf = true →
    s.cfg.blockBase ≤ addr → addr < s.cfg.blockBase + 8 * s.cfg.cmdPorts → 0 < size →
    (size ≠ 4 ∨ addr % 4 ≠ 0) →
      (s.inbox = .busWrite addr size data :: rest → step s = .next ((s.withInbox rest).withBus .error)) ∧
        (s.inbox = .busRead addr size :: rest → step s = .next ((s.withInbox rest).withBus .error))

/-- R75, R76: in the window of a port (HOST 0, TRANSPORT 1, PRODUCER(k) 2 + 2k, CONSUMER(k) 3 + 2k), a write to CMD
issues the command on that port, a read of CMD gives 0, a read of RESULT gives the result word with no side effect, a
write of RESULT is ignored. The field `bus` is the model's (log 5). -/
def Obligations.BusWindowsReachThePorts : Prop :=
  ∀ (s : State) (p : Port) (w : Word), s.cfg.wf = true → portExists s.cfg p = true →
    let n := match p with
      | .host => 0
      | .transport => 1
      | .producer k => 2 + 2 * k
      | .consumer k => 3 + 2 * k
    let cmd := s.cfg.blockBase + 8 * n
    step (s.withInbox [.busWrite cmd 4 w]) = step ((s.withBus .done).withInbox [.command p w]) ∧
      step (s.withInbox [.busRead cmd 4]) = .next ((s.withInbox []).withBus (.data 0#32)) ∧
      step (s.withInbox [.busRead (cmd + 4) 4]) = .next ((s.withInbox []).withBus (.data (resultAt s p))) ∧
      step (s.withInbox [.busWrite (cmd + 4) 4 w]) = .next ((s.withInbox []).withBus .done)

/-! ## Invariants of every reachable state -/

/-- RESET of every legal configuration, the reference one among them, meets the invariant. -/
def Obligations.ResetMeetsTheInvariant : Prop := ∀ c : Cfg, c.wf = true → Inv (State.resetOf c)

/-- Every step keeps the configuration and the sizes of all tables (R44, R30, R32, R36, R38). The last clause is about
the model's own field `port` (log 3): after a step it is still one of the block's ports, the old one or another. -/
def Obligations.StepKeepsShape : Prop :=
  ∀ s t : State, Inv s → step s = .next t → t.cfg = s.cfg ∧ Shaped t ∧ PortKnown t

/-- Every step keeps the canonical form of ring storage and frame buffer, which is the model's choice (log 4). -/
def Obligations.StepKeepsStorageCanonical : Prop :=
  ∀ s t : State, Inv s → step s = .next t → Memory.wf t = true

/-- R34, R35, R71: every step of every agent keeps the cursor invariants of every ring, in both clockings, and every
element between `tail` and `head` has been written. -/
def Obligations.StepKeepsRingInvariants : Prop := ∀ s t : State, Inv s → step s = .next t → RingsOk t

/-- R191: every step keeps the service-table invariants. -/
def Obligations.StepKeepsServiceInvariants : Prop := ∀ s t : State, Inv s → step s = .next t → ServicesOk t

/-- R71, R215 to R217: every step keeps the parser invariants, so that a commit copies only bytes its frame stored. -/
def Obligations.StepKeepsParserInvariants : Prop := ∀ s t : State, Inv s → step s = .next t → ParserOk t

/-- R39, R150 to R155: every step keeps the scheduler and timer invariants. R150 gives an absent unit no state; that the
model keeps its fields, at their reset values, is the model's choice (log 12). -/
def Obligations.StepKeepsSchedulerInvariants : Prop := ∀ s t : State, Inv s → step s = .next t → SchedulerOk t

/-- R108: a result word has its code of the table in bits 31:24, zeros in bits 23:16 and DATA in bits 15:0; and every
RESULT register always holds a word with a defined code, zero reserved bits, and DATA 0 unless the code is RC_OK. -/
def Obligations.StepKeepsResultWords : Prop :=
  (∀ (rc : ResultCode) (d : Half),
    (resultWord rc d).extractLsb' 24 8 =
        (match rc with
          | .ok => 0x00#8
          | .full => 0x01#8
          | .empty => 0x02#8
          | .tableFull => 0x03#8
          | .invalidHandle => 0x04#8
          | .invalidPort => 0x05#8
          | .invalidService => 0x06#8
          | .alreadyRegistered => 0x07#8
          | .invalidLen => 0x08#8
          | .invalidIndex => 0x09#8
          | .none => 0x0A#8
          | .seqError => 0x0B#8
          | .illegal => 0x0C#8) ∧
      (resultWord rc d).extractLsb' 16 8 = 0x00#8 ∧ (resultWord rc d).extractLsb' 0 16 = d) ∧
  ∀ s t : State, ResultsOk s → step s = .next t → ResultsOk t
end

