-- ==== Sys2Proof/Laws/State.lean ====
section
/-! SUPPORT. One lemma per field per update of the state, each true by rfl, so that no later proof unfolds a record
update. -/

namespace Sys2Proof.Machine

variable (s : State)

@[simp] theorem withRb_cfg (v : List Ring) : (s.withRb v).cfg = s.cfg := rfl
@[simp] theorem withRb_rb (v : List Ring) : (s.withRb v).rb = v := rfl
@[simp] theorem withRb_svc (v : List Ring) : (s.withRb v).svc = s.svc := rfl
@[simp] theorem withRb_ssp (v : List Ring) : (s.withRb v).ssp = s.ssp := rfl
@[simp] theorem withRb_fv (v : List Ring) : (s.withRb v).fv = s.fv := rfl
@[simp] theorem withRb_sch (v : List Ring) : (s.withRb v).sch = s.sch := rfl
@[simp] theorem withRb_tmr (v : List Ring) : (s.withRb v).tmr = s.tmr := rfl
@[simp] theorem withRb_result (v : List Ring) : (s.withRb v).result = s.result := rfl
@[simp] theorem withRb_inbox (v : List Ring) : (s.withRb v).inbox = s.inbox := rfl
@[simp] theorem withRb_port (v : List Ring) : (s.withRb v).port = s.port := rfl
@[simp] theorem withRb_bus (v : List Ring) : (s.withRb v).bus = s.bus := rfl
@[simp] theorem withRb_epoch (v : List Ring) : (s.withRb v).epoch = s.epoch := rfl
@[simp] theorem withRb_self : s.withRb s.rb = s := rfl
@[simp] theorem withRb_withRb (v w : List Ring) : (s.withRb v).withRb w = s.withRb w := rfl

@[simp] theorem withSvc_cfg (v : List SvcPort) : (s.withSvc v).cfg = s.cfg := rfl
@[simp] theorem withSvc_rb (v : List SvcPort) : (s.withSvc v).rb = s.rb := rfl
@[simp] theorem withSvc_svc (v : List SvcPort) : (s.withSvc v).svc = v := rfl
@[simp] theorem withSvc_ssp (v : List SvcPort) : (s.withSvc v).ssp = s.ssp := rfl
@[simp] theorem withSvc_fv (v : List SvcPort) : (s.withSvc v).fv = s.fv := rfl
@[simp] theorem withSvc_sch (v : List SvcPort) : (s.withSvc v).sch = s.sch := rfl
@[simp] theorem withSvc_tmr (v : List SvcPort) : (s.withSvc v).tmr = s.tmr := rfl
@[simp] theorem withSvc_result (v : List SvcPort) : (s.withSvc v).result = s.result := rfl
@[simp] theorem withSvc_inbox (v : List SvcPort) : (s.withSvc v).inbox = s.inbox := rfl
@[simp] theorem withSvc_port (v : List SvcPort) : (s.withSvc v).port = s.port := rfl
@[simp] theorem withSvc_bus (v : List SvcPort) : (s.withSvc v).bus = s.bus := rfl
@[simp] theorem withSvc_epoch (v : List SvcPort) : (s.withSvc v).epoch = s.epoch := rfl
@[simp] theorem withSvc_self : s.withSvc s.svc = s := rfl
@[simp] theorem withSvc_withSvc (v w : List SvcPort) : (s.withSvc v).withSvc w = s.withSvc w := rfl

@[simp] theorem withSsp_cfg (v : BitVec 5) : (s.withSsp v).cfg = s.cfg := rfl
@[simp] theorem withSsp_rb (v : BitVec 5) : (s.withSsp v).rb = s.rb := rfl
@[simp] theorem withSsp_svc (v : BitVec 5) : (s.withSsp v).svc = s.svc := rfl
@[simp] theorem withSsp_ssp (v : BitVec 5) : (s.withSsp v).ssp = v := rfl
@[simp] theorem withSsp_fv (v : BitVec 5) : (s.withSsp v).fv = s.fv := rfl
@[simp] theorem withSsp_sch (v : BitVec 5) : (s.withSsp v).sch = s.sch := rfl
@[simp] theorem withSsp_tmr (v : BitVec 5) : (s.withSsp v).tmr = s.tmr := rfl
@[simp] theorem withSsp_result (v : BitVec 5) : (s.withSsp v).result = s.result := rfl
@[simp] theorem withSsp_inbox (v : BitVec 5) : (s.withSsp v).inbox = s.inbox := rfl
@[simp] theorem withSsp_port (v : BitVec 5) : (s.withSsp v).port = s.port := rfl
@[simp] theorem withSsp_bus (v : BitVec 5) : (s.withSsp v).bus = s.bus := rfl
@[simp] theorem withSsp_epoch (v : BitVec 5) : (s.withSsp v).epoch = s.epoch := rfl
@[simp] theorem withSsp_self : s.withSsp s.ssp = s := rfl
@[simp] theorem withSsp_withSsp (v w : BitVec 5) : (s.withSsp v).withSsp w = s.withSsp w := rfl

@[simp] theorem withFv_cfg (v : Fv) : (s.withFv v).cfg = s.cfg := rfl
@[simp] theorem withFv_rb (v : Fv) : (s.withFv v).rb = s.rb := rfl
@[simp] theorem withFv_svc (v : Fv) : (s.withFv v).svc = s.svc := rfl
@[simp] theorem withFv_ssp (v : Fv) : (s.withFv v).ssp = s.ssp := rfl
@[simp] theorem withFv_fv (v : Fv) : (s.withFv v).fv = v := rfl
@[simp] theorem withFv_sch (v : Fv) : (s.withFv v).sch = s.sch := rfl
@[simp] theorem withFv_tmr (v : Fv) : (s.withFv v).tmr = s.tmr := rfl
@[simp] theorem withFv_result (v : Fv) : (s.withFv v).result = s.result := rfl
@[simp] theorem withFv_inbox (v : Fv) : (s.withFv v).inbox = s.inbox := rfl
@[simp] theorem withFv_port (v : Fv) : (s.withFv v).port = s.port := rfl
@[simp] theorem withFv_bus (v : Fv) : (s.withFv v).bus = s.bus := rfl
@[simp] theorem withFv_epoch (v : Fv) : (s.withFv v).epoch = s.epoch := rfl
@[simp] theorem withFv_self : s.withFv s.fv = s := rfl
@[simp] theorem withFv_withFv (v w : Fv) : (s.withFv v).withFv w = s.withFv w := rfl

@[simp] theorem withSch_cfg (v : Sched) : (s.withSch v).cfg = s.cfg := rfl
@[simp] theorem withSch_rb (v : Sched) : (s.withSch v).rb = s.rb := rfl
@[simp] theorem withSch_svc (v : Sched) : (s.withSch v).svc = s.svc := rfl
@[simp] theorem withSch_ssp (v : Sched) : (s.withSch v).ssp = s.ssp := rfl
@[simp] theorem withSch_fv (v : Sched) : (s.withSch v).fv = s.fv := rfl
@[simp] theorem withSch_sch (v : Sched) : (s.withSch v).sch = v := rfl
@[simp] theorem withSch_tmr (v : Sched) : (s.withSch v).tmr = s.tmr := rfl
@[simp] theorem withSch_result (v : Sched) : (s.withSch v).result = s.result := rfl
@[simp] theorem withSch_inbox (v : Sched) : (s.withSch v).inbox = s.inbox := rfl
@[simp] theorem withSch_port (v : Sched) : (s.withSch v).port = s.port := rfl
@[simp] theorem withSch_bus (v : Sched) : (s.withSch v).bus = s.bus := rfl
@[simp] theorem withSch_epoch (v : Sched) : (s.withSch v).epoch = s.epoch := rfl
@[simp] theorem withSch_self : s.withSch s.sch = s := rfl
@[simp] theorem withSch_withSch (v w : Sched) : (s.withSch v).withSch w = s.withSch w := rfl

@[simp] theorem withTmr_cfg (v : Timer) : (s.withTmr v).cfg = s.cfg := rfl
@[simp] theorem withTmr_rb (v : Timer) : (s.withTmr v).rb = s.rb := rfl
@[simp] theorem withTmr_svc (v : Timer) : (s.withTmr v).svc = s.svc := rfl
@[simp] theorem withTmr_ssp (v : Timer) : (s.withTmr v).ssp = s.ssp := rfl
@[simp] theorem withTmr_fv (v : Timer) : (s.withTmr v).fv = s.fv := rfl
@[simp] theorem withTmr_sch (v : Timer) : (s.withTmr v).sch = s.sch := rfl
@[simp] theorem withTmr_tmr (v : Timer) : (s.withTmr v).tmr = v := rfl
@[simp] theorem withTmr_result (v : Timer) : (s.withTmr v).result = s.result := rfl
@[simp] theorem withTmr_inbox (v : Timer) : (s.withTmr v).inbox = s.inbox := rfl
@[simp] theorem withTmr_port (v : Timer) : (s.withTmr v).port = s.port := rfl
@[simp] theorem withTmr_bus (v : Timer) : (s.withTmr v).bus = s.bus := rfl
@[simp] theorem withTmr_epoch (v : Timer) : (s.withTmr v).epoch = s.epoch := rfl
@[simp] theorem withTmr_self : s.withTmr s.tmr = s := rfl
@[simp] theorem withTmr_withTmr (v w : Timer) : (s.withTmr v).withTmr w = s.withTmr w := rfl

@[simp] theorem withResult_cfg (v : List Word) : (s.withResult v).cfg = s.cfg := rfl
@[simp] theorem withResult_rb (v : List Word) : (s.withResult v).rb = s.rb := rfl
@[simp] theorem withResult_svc (v : List Word) : (s.withResult v).svc = s.svc := rfl
@[simp] theorem withResult_ssp (v : List Word) : (s.withResult v).ssp = s.ssp := rfl
@[simp] theorem withResult_fv (v : List Word) : (s.withResult v).fv = s.fv := rfl
@[simp] theorem withResult_sch (v : List Word) : (s.withResult v).sch = s.sch := rfl
@[simp] theorem withResult_tmr (v : List Word) : (s.withResult v).tmr = s.tmr := rfl
@[simp] theorem withResult_result (v : List Word) : (s.withResult v).result = v := rfl
@[simp] theorem withResult_inbox (v : List Word) : (s.withResult v).inbox = s.inbox := rfl
@[simp] theorem withResult_port (v : List Word) : (s.withResult v).port = s.port := rfl
@[simp] theorem withResult_bus (v : List Word) : (s.withResult v).bus = s.bus := rfl
@[simp] theorem withResult_epoch (v : List Word) : (s.withResult v).epoch = s.epoch := rfl
@[simp] theorem withResult_self : s.withResult s.result = s := rfl
@[simp] theorem withResult_withResult (v w : List Word) : (s.withResult v).withResult w = s.withResult w := rfl

@[simp] theorem withInbox_cfg (v : List Input) : (s.withInbox v).cfg = s.cfg := rfl
@[simp] theorem withInbox_rb (v : List Input) : (s.withInbox v).rb = s.rb := rfl
@[simp] theorem withInbox_svc (v : List Input) : (s.withInbox v).svc = s.svc := rfl
@[simp] theorem withInbox_ssp (v : List Input) : (s.withInbox v).ssp = s.ssp := rfl
@[simp] theorem withInbox_fv (v : List Input) : (s.withInbox v).fv = s.fv := rfl
@[simp] theorem withInbox_sch (v : List Input) : (s.withInbox v).sch = s.sch := rfl
@[simp] theorem withInbox_tmr (v : List Input) : (s.withInbox v).tmr = s.tmr := rfl
@[simp] theorem withInbox_result (v : List Input) : (s.withInbox v).result = s.result := rfl
@[simp] theorem withInbox_inbox (v : List Input) : (s.withInbox v).inbox = v := rfl
@[simp] theorem withInbox_port (v : List Input) : (s.withInbox v).port = s.port := rfl
@[simp] theorem withInbox_bus (v : List Input) : (s.withInbox v).bus = s.bus := rfl
@[simp] theorem withInbox_epoch (v : List Input) : (s.withInbox v).epoch = s.epoch := rfl
@[simp] theorem withInbox_self : s.withInbox s.inbox = s := rfl
@[simp] theorem withInbox_withInbox (v w : List Input) : (s.withInbox v).withInbox w = s.withInbox w := rfl

@[simp] theorem withPort_cfg (v : Port) : (s.withPort v).cfg = s.cfg := rfl
@[simp] theorem withPort_rb (v : Port) : (s.withPort v).rb = s.rb := rfl
@[simp] theorem withPort_svc (v : Port) : (s.withPort v).svc = s.svc := rfl
@[simp] theorem withPort_ssp (v : Port) : (s.withPort v).ssp = s.ssp := rfl
@[simp] theorem withPort_fv (v : Port) : (s.withPort v).fv = s.fv := rfl
@[simp] theorem withPort_sch (v : Port) : (s.withPort v).sch = s.sch := rfl
@[simp] theorem withPort_tmr (v : Port) : (s.withPort v).tmr = s.tmr := rfl
@[simp] theorem withPort_result (v : Port) : (s.withPort v).result = s.result := rfl
@[simp] theorem withPort_inbox (v : Port) : (s.withPort v).inbox = s.inbox := rfl
@[simp] theorem withPort_port (v : Port) : (s.withPort v).port = v := rfl
@[simp] theorem withPort_bus (v : Port) : (s.withPort v).bus = s.bus := rfl
@[simp] theorem withPort_epoch (v : Port) : (s.withPort v).epoch = s.epoch := rfl
@[simp] theorem withPort_self : s.withPort s.port = s := rfl
@[simp] theorem withPort_withPort (v w : Port) : (s.withPort v).withPort w = s.withPort w := rfl

@[simp] theorem withBus_cfg (v : BusResp) : (s.withBus v).cfg = s.cfg := rfl
@[simp] theorem withBus_rb (v : BusResp) : (s.withBus v).rb = s.rb := rfl
@[simp] theorem withBus_svc (v : BusResp) : (s.withBus v).svc = s.svc := rfl
@[simp] theorem withBus_ssp (v : BusResp) : (s.withBus v).ssp = s.ssp := rfl
@[simp] theorem withBus_fv (v : BusResp) : (s.withBus v).fv = s.fv := rfl
@[simp] theorem withBus_sch (v : BusResp) : (s.withBus v).sch = s.sch := rfl
@[simp] theorem withBus_tmr (v : BusResp) : (s.withBus v).tmr = s.tmr := rfl
@[simp] theorem withBus_result (v : BusResp) : (s.withBus v).result = s.result := rfl
@[simp] theorem withBus_inbox (v : BusResp) : (s.withBus v).inbox = s.inbox := rfl
@[simp] theorem withBus_port (v : BusResp) : (s.withBus v).port = s.port := rfl
@[simp] theorem withBus_bus (v : BusResp) : (s.withBus v).bus = v := rfl
@[simp] theorem withBus_epoch (v : BusResp) : (s.withBus v).epoch = s.epoch := rfl
@[simp] theorem withBus_self : s.withBus s.bus = s := rfl
@[simp] theorem withBus_withBus (v w : BusResp) : (s.withBus v).withBus w = s.withBus w := rfl

@[simp] theorem withEpoch_cfg (v : Nat) : (s.withEpoch v).cfg = s.cfg := rfl
@[simp] theorem withEpoch_rb (v : Nat) : (s.withEpoch v).rb = s.rb := rfl
@[simp] theorem withEpoch_svc (v : Nat) : (s.withEpoch v).svc = s.svc := rfl
@[simp] theorem withEpoch_ssp (v : Nat) : (s.withEpoch v).ssp = s.ssp := rfl
@[simp] theorem withEpoch_fv (v : Nat) : (s.withEpoch v).fv = s.fv := rfl
@[simp] theorem withEpoch_sch (v : Nat) : (s.withEpoch v).sch = s.sch := rfl
@[simp] theorem withEpoch_tmr (v : Nat) : (s.withEpoch v).tmr = s.tmr := rfl
@[simp] theorem withEpoch_result (v : Nat) : (s.withEpoch v).result = s.result := rfl
@[simp] theorem withEpoch_inbox (v : Nat) : (s.withEpoch v).inbox = s.inbox := rfl
@[simp] theorem withEpoch_port (v : Nat) : (s.withEpoch v).port = s.port := rfl
@[simp] theorem withEpoch_bus (v : Nat) : (s.withEpoch v).bus = s.bus := rfl
@[simp] theorem withEpoch_epoch (v : Nat) : (s.withEpoch v).epoch = v := rfl
@[simp] theorem withEpoch_self : s.withEpoch s.epoch = s := rfl
@[simp] theorem withEpoch_withEpoch (v w : Nat) : (s.withEpoch v).withEpoch w = s.withEpoch w := rfl

@[simp] theorem setRing_cfg (k : Nat) (r : Ring) : (setRing k r s).cfg = s.cfg := rfl
@[simp] theorem setRing_svc (k : Nat) (r : Ring) : (setRing k r s).svc = s.svc := rfl
@[simp] theorem setRing_ssp (k : Nat) (r : Ring) : (setRing k r s).ssp = s.ssp := rfl
@[simp] theorem setRing_fv (k : Nat) (r : Ring) : (setRing k r s).fv = s.fv := rfl
@[simp] theorem setRing_sch (k : Nat) (r : Ring) : (setRing k r s).sch = s.sch := rfl
@[simp] theorem setRing_tmr (k : Nat) (r : Ring) : (setRing k r s).tmr = s.tmr := rfl
@[simp] theorem setRing_result (k : Nat) (r : Ring) : (setRing k r s).result = s.result := rfl
@[simp] theorem setRing_inbox (k : Nat) (r : Ring) : (setRing k r s).inbox = s.inbox := rfl
@[simp] theorem setRing_port (k : Nat) (r : Ring) : (setRing k r s).port = s.port := rfl
@[simp] theorem setRing_bus (k : Nat) (r : Ring) : (setRing k r s).bus = s.bus := rfl
@[simp] theorem setRing_epoch (k : Nat) (r : Ring) : (setRing k r s).epoch = s.epoch := rfl

@[simp] theorem setSvc_cfg (i : Nat) (p : SvcPort) : (setSvc i p s).cfg = s.cfg := rfl
@[simp] theorem setSvc_rb (i : Nat) (p : SvcPort) : (setSvc i p s).rb = s.rb := rfl
@[simp] theorem setSvc_ssp (i : Nat) (p : SvcPort) : (setSvc i p s).ssp = s.ssp := rfl
@[simp] theorem setSvc_fv (i : Nat) (p : SvcPort) : (setSvc i p s).fv = s.fv := rfl
@[simp] theorem setSvc_sch (i : Nat) (p : SvcPort) : (setSvc i p s).sch = s.sch := rfl
@[simp] theorem setSvc_tmr (i : Nat) (p : SvcPort) : (setSvc i p s).tmr = s.tmr := rfl
@[simp] theorem setSvc_result (i : Nat) (p : SvcPort) : (setSvc i p s).result = s.result := rfl
@[simp] theorem setSvc_inbox (i : Nat) (p : SvcPort) : (setSvc i p s).inbox = s.inbox := rfl
@[simp] theorem setSvc_port (i : Nat) (p : SvcPort) : (setSvc i p s).port = s.port := rfl
@[simp] theorem setSvc_bus (i : Nat) (p : SvcPort) : (setSvc i p s).bus = s.bus := rfl
@[simp] theorem setSvc_epoch (i : Nat) (p : SvcPort) : (setSvc i p s).epoch = s.epoch := rfl

@[simp] theorem setSlot_cfg (j : Nat) (x : Slot) : (setSlot j x s).cfg = s.cfg := rfl
@[simp] theorem setSlot_rb (j : Nat) (x : Slot) : (setSlot j x s).rb = s.rb := rfl
@[simp] theorem setSlot_svc (j : Nat) (x : Slot) : (setSlot j x s).svc = s.svc := rfl
@[simp] theorem setSlot_ssp (j : Nat) (x : Slot) : (setSlot j x s).ssp = s.ssp := rfl
@[simp] theorem setSlot_fv (j : Nat) (x : Slot) : (setSlot j x s).fv = s.fv := rfl
@[simp] theorem setSlot_tmr (j : Nat) (x : Slot) : (setSlot j x s).tmr = s.tmr := rfl
@[simp] theorem setSlot_result (j : Nat) (x : Slot) : (setSlot j x s).result = s.result := rfl
@[simp] theorem setSlot_inbox (j : Nat) (x : Slot) : (setSlot j x s).inbox = s.inbox := rfl
@[simp] theorem setSlot_port (j : Nat) (x : Slot) : (setSlot j x s).port = s.port := rfl
@[simp] theorem setSlot_bus (j : Nat) (x : Slot) : (setSlot j x s).bus = s.bus := rfl
@[simp] theorem setSlot_epoch (j : Nat) (x : Slot) : (setSlot j x s).epoch = s.epoch := rfl

@[simp] theorem respond_cfg (rc : ResultCode) (data : Half) : (respond rc data s).cfg = s.cfg := rfl
@[simp] theorem respond_rb (rc : ResultCode) (data : Half) : (respond rc data s).rb = s.rb := rfl
@[simp] theorem respond_svc (rc : ResultCode) (data : Half) : (respond rc data s).svc = s.svc := rfl
@[simp] theorem respond_ssp (rc : ResultCode) (data : Half) : (respond rc data s).ssp = s.ssp := rfl
@[simp] theorem respond_fv (rc : ResultCode) (data : Half) : (respond rc data s).fv = s.fv := rfl
@[simp] theorem respond_sch (rc : ResultCode) (data : Half) : (respond rc data s).sch = s.sch := rfl
@[simp] theorem respond_tmr (rc : ResultCode) (data : Half) : (respond rc data s).tmr = s.tmr := rfl
@[simp] theorem respond_inbox (rc : ResultCode) (data : Half) : (respond rc data s).inbox = s.inbox := rfl
@[simp] theorem respond_port (rc : ResultCode) (data : Half) : (respond rc data s).port = s.port := rfl
@[simp] theorem respond_bus (rc : ResultCode) (data : Half) : (respond rc data s).bus = s.bus := rfl
@[simp] theorem respond_epoch (rc : ResultCode) (data : Half) : (respond rc data s).epoch = s.epoch := rfl

@[simp] theorem fail_cfg (rc : ResultCode) : (fail rc s).cfg = s.cfg := rfl
@[simp] theorem fail_rb (rc : ResultCode) : (fail rc s).rb = s.rb := rfl
@[simp] theorem fail_svc (rc : ResultCode) : (fail rc s).svc = s.svc := rfl
@[simp] theorem fail_ssp (rc : ResultCode) : (fail rc s).ssp = s.ssp := rfl
@[simp] theorem fail_fv (rc : ResultCode) : (fail rc s).fv = s.fv := rfl
@[simp] theorem fail_sch (rc : ResultCode) : (fail rc s).sch = s.sch := rfl
@[simp] theorem fail_tmr (rc : ResultCode) : (fail rc s).tmr = s.tmr := rfl
@[simp] theorem fail_inbox (rc : ResultCode) : (fail rc s).inbox = s.inbox := rfl
@[simp] theorem fail_port (rc : ResultCode) : (fail rc s).port = s.port := rfl
@[simp] theorem fail_bus (rc : ResultCode) : (fail rc s).bus = s.bus := rfl
@[simp] theorem fail_epoch (rc : ResultCode) : (fail rc s).epoch = s.epoch := rfl

end Sys2Proof.Machine
end

