-- ==== Sys2Proof/Laws/Store.lean ====
section
/-! SUPPORT. What the sparse storage does: a read after a write, and that every write keeps the canonical form. -/

namespace Sys2Proof.Machine

variable {w : Nat}

@[simp] theorem storeGet_nil (i : Nat) : storeGet ([] : Store w) i = none := rfl

@[simp] theorem storeGet_storeSet_self (m : Store w) (i : Nat) (v : BitVec w) :
    storeGet (storeSet m i v) i = some v := by
  induction m with
  | nil => simp [storeSet, storeGet]
  | cons x m ih =>
    obtain ⟨a, y⟩ := x
    simp only [storeSet]
    split
    · simp [storeGet]
    · split
      · simp [storeGet]
      · have : a ≠ i := fun h => by simp_all
        simp [storeGet, this, ih]

theorem storeGet_storeSet_ne (m : Store w) {i j : Nat} (v : BitVec w) (h : j ≠ i) :
    storeGet (storeSet m i v) j = storeGet m j := by
  induction m with
  | nil => simp [storeSet, storeGet, h.symm]
  | cons x m ih =>
    obtain ⟨a, y⟩ := x
    simp only [storeSet]
    split
    · simp [storeGet, h.symm]
    · split
      · rename_i hia
        simp [storeGet, h.symm, ← hia]
      · simp [storeGet, ih]

/-- Every index of the storage after a write is the written one or was there before. -/
theorem mem_storeSet {m : Store w} {i : Nat} {v : BitVec w} {x : Nat × BitVec w} (h : x ∈ storeSet m i v) :
    x = (i, v) ∨ x ∈ m := by
  induction m with
  | nil => simpa [storeSet] using h
  | cons y m ih =>
    obtain ⟨a, z⟩ := y
    simp only [storeSet] at h
    split at h
    · simpa using h
    · split at h
      · simp only [List.mem_cons] at h ⊢
        tauto
      · simp only [List.mem_cons] at h ⊢
        rcases h with h | h
        · exact .inr (.inl h)
        · rcases ih h with h | h
          · exact .inl h
          · exact .inr (.inr h)

theorem storeRising_storeSet {m : Store w} (i : Nat) (v : BitVec w) (h : storeRising m = true) :
    storeRising (storeSet m i v) = true := by
  induction m with
  | nil => simp [storeSet, storeRising]
  | cons y m ih =>
    obtain ⟨a, z⟩ := y
    simp only [storeRising, Bool.and_eq_true, List.all_eq_true, decide_eq_true_eq] at h
    simp only [storeSet]
    split
    · rename_i hia
      simp only [storeRising, Bool.and_eq_true, List.all_eq_true, decide_eq_true_eq, List.mem_cons]
      refine ⟨?_, h⟩
      rintro x (rfl | hx)
      · exact hia
      · exact hia.trans (h.1 x hx)
    · split
      · rename_i hia
        simp only [storeRising, Bool.and_eq_true, List.all_eq_true, decide_eq_true_eq]
        subst hia
        exact h
      · simp only [storeRising, Bool.and_eq_true, List.all_eq_true, decide_eq_true_eq]
        refine ⟨fun x hx => ?_, ih h.2⟩
        rcases mem_storeSet hx with rfl | hx
        · simp only
          omega
        · exact h.1 x hx

/-- A write below the size of a storage keeps its canonical form. -/
theorem storeWf_storeSet {size : Nat} {m : Store w} {i : Nat} (v : BitVec w) (hi : i < size)
    (h : storeWf size m = true) : storeWf size (storeSet m i v) = true := by
  simp only [storeWf, Bool.and_eq_true, List.all_eq_true, decide_eq_true_eq] at h ⊢
  refine ⟨storeRising_storeSet i v h.1, fun x hx => ?_⟩
  rcases mem_storeSet hx with rfl | hx
  · exact hi
  · exact h.2 x hx

@[simp] theorem storeWf_nil (size : Nat) : storeWf size ([] : Store w) = true := rfl

/-- Two storages in canonical form that read the same everywhere are the same data. -/
theorem store_ext {m n : Store w} (hm : storeRising m = true) (hn : storeRising n = true)
    (h : ∀ i, storeGet m i = storeGet n i) : m = n := by
  have low : ∀ (l : Store w) (b : Nat), (∀ x ∈ l, b < x.1) → storeGet l b = none := by
    intro l b
    induction l with
    | nil => simp
    | cons x l ih =>
      intro hl
      have hx := hl x (by simp)
      simp only [storeGet, if_neg (Nat.ne_of_gt hx)]
      exact ih fun y hy => hl y (by simp [hy])
  induction m generalizing n with
  | nil =>
    cases n with
    | nil => rfl
    | cons y n => have := h y.1; simp [storeGet] at this
  | cons x m ih =>
    cases n with
    | nil => have := h x.1; simp [storeGet] at this
    | cons y n =>
      obtain ⟨a, u⟩ := x
      obtain ⟨b, z⟩ := y
      simp only [storeRising, Bool.and_eq_true, List.all_eq_true, decide_eq_true_eq] at hm hn
      have hab : a = b := by
        rcases Nat.lt_trichotomy a b with hlt | heq | hgt
        · have := h a
          simp only [storeGet, if_true, if_neg (Nat.ne_of_gt hlt)] at this
          rw [low n a fun x hx => hlt.trans (hn.1 x hx)] at this
          cases this
        · exact heq
        · have := h b
          simp only [storeGet, if_true, if_neg (Nat.ne_of_gt hgt)] at this
          rw [low m b fun x hx => hgt.trans (hm.1 x hx)] at this
          cases this
      subst hab
      have huz : u = z := by simpa [storeGet] using h a
      subst huz
      congr 1
      refine ih hm.2 hn.2 fun i => ?_
      have := h i
      simp only [storeGet] at this
      split at this
      · rename_i hi
        subst hi
        rw [low m a hm.1, low n a hn.1]
      · exact this

end Sys2Proof.Machine
end

