-- ==== Sys2Proof/Laws/Ops.lean ====
section
/-! SUPPORT. For each shared operation, what it can do, so that later proofs cite it and do not unfold it. -/

namespace Sys2Proof.Machine

/-! Cursor arithmetic (R11, R32). -/

theorem subM_of_lt {m a b : Nat} (ha : a < m) (hb : b < m) :
    subM m a b = if b ≤ a then a - b else a + m - b := by
  unfold subM
  rw [Nat.mod_eq_of_lt hb]
  split
  · rw [show a + (m - b) = (a - b) + m by omega, Nat.add_mod_right, Nat.mod_eq_of_lt (by omega)]
  · rw [show a + (m - b) = a + m - b by omega, Nat.mod_eq_of_lt (by omega)]

theorem subM_lt {m : Nat} (a b : Nat) (hm : 0 < m) : subM m a b < m := Nat.mod_lt _ hm

@[simp] theorem subM_self {m a : Nat} (ha : a < m) : subM m a a = 0 := by simp [subM_of_lt ha ha]

theorem addM_one_of_lt {m a : Nat} (ha : a < m) : addM m a 1 = if a + 1 = m then 0 else a + 1 := by
  unfold addM
  split
  · rename_i h
    simp [h]
  · exact Nat.mod_eq_of_lt (by omega)

theorem cap_pos (c : RingCfg) : 0 < c.cap := Nat.two_pow_pos _

theorem modulus_eq (c : RingCfg) : c.modulus = 2 * c.cap := by
  simp [RingCfg.modulus, RingCfg.cap, Nat.pow_succ, Nat.mul_comm]

/-! Tables. -/

theorem ringAt_setRing {s : State} {k : Nat} (r : Ring) (j : Nat) (hk : k < s.rb.length) :
    ringAt (setRing k r s) j = if j = k then r else ringAt s j := by
  simp only [ringAt, setRing, withRb_rb, List.getD_eq_getElem?_getD, List.getElem?_set]
  by_cases h : k = j
  · subst h
    simp [hk]
  · simp [h, Ne.symm h]

theorem svcAt_setSvc {s : State} {i : Nat} (p : SvcPort) (j : Nat) (hi : i < s.svc.length) :
    svcAt (setSvc i p s) j = if j = i then p else svcAt s j := by
  simp only [svcAt, setSvc, withSvc_svc, withSvc_cfg, List.getD_eq_getElem?_getD, List.getElem?_set]
  by_cases h : i = j
  · subst h
    simp [hi]
  · simp [h, Ne.symm h]

theorem slotAt_setSlot {s : State} {j : Nat} (x : Slot) (i : Nat) (hj : j < s.sch.slots.length) :
    slotAt (setSlot j x s) i = if i = j then x else slotAt s i := by
  simp only [slotAt, setSlot, withSch_sch, List.getD_eq_getElem?_getD, List.getElem?_set]
  by_cases h : j = i
  · subst h
    simp [hj]
  · simp [h, Ne.symm h]

/-- A table lookup depends on its own field of the state only. -/
theorem ringAt_congr {s t : State} (h : t.rb = s.rb) (k : Nat) : ringAt t k = ringAt s k := by
  simp [ringAt, h]

theorem svcAt_congr {s t : State} (hc : t.cfg = s.cfg) (h : t.svc = s.svc) (i : Nat) : svcAt t i = svcAt s i := by
  simp [svcAt, hc, h]

theorem slotAt_congr {s t : State} (h : t.sch.slots = s.sch.slots) (j : Nat) : slotAt t j = slotAt s j := by
  simp [slotAt, h]

theorem memRead_congr {s t : State} (hc : t.cfg = s.cfg) (h : t.rb = s.rb) (he : t.epoch = s.epoch) (k i : Nat) :
    memRead t k i = memRead s k i := by
  simp [memRead, ringAt, hc, h, he]

/-! Ports and answers (R12, R76, R105, R106, R180). -/

theorem portNumber_injective {p q : Port} (h : portNumber p = portNumber q) : p = q := by
  cases p <;> cases q <;> simp [portNumber] at h ⊢ <;> omega

@[simp] theorem portOfNumber_portNumber (p : Port) : portOfNumber (portNumber p) = p := by
  cases p with
  | host => rfl
  | transport => rfl
  | producer k =>
    rw [portNumber, portOfNumber, if_neg (by omega), if_neg (by omega), if_pos (by omega)]
    congr 1
    omega
  | consumer k =>
    rw [portNumber, portOfNumber, if_neg (by omega), if_neg (by omega), if_neg (by omega)]
    congr 1
    omega

theorem portNumber_lt {c : Cfg} {p : Port} (h : portExists c p = true) : portNumber p < c.cmdPorts := by
  cases p <;> simp [portExists, portNumber, Cfg.cmdPorts] at h ⊢ <;> omega

theorem resultAt_respond {s : State} (rc : ResultCode) (data : Half) (p : Port)
    (h : portNumber s.port < s.result.length) :
    resultAt (respond rc data s) p = if p = s.port then resultWord rc data else resultAt s p := by
  simp only [resultAt, respond, withResult_result, List.getD_eq_getElem?_getD, List.getElem?_set]
  by_cases hp : p = s.port
  · subst hp
    simp [h]
  · have : portNumber s.port ≠ portNumber p := fun e => hp (portNumber_injective e).symm
    simp [hp, this]

@[simp] theorem ifLegal_true (s t : State) : ifLegal true s t = .next t := rfl

@[simp] theorem ifLegal_false (s t : State) : ifLegal false s t = .next (fail .illegal s) := rfl

theorem svcIndex_eq_some_iff {c : Cfg} {a : Byte} {i : Nat} :
    svcIndex c a = some i ↔
      c.portBase.toNat ≤ a.toNat ∧ a.toNat < c.portBase.toNat + c.portCount ∧ i = a.toNat - c.portBase.toNat := by
  simp only [svcIndex, Cfg.isPortId, Bool.and_eq_true, decide_eq_true_eq]
  split
  · rename_i h
    simp only [Option.some.injEq, h, true_and]
    exact eq_comm
  · rename_i h
    simp only [reduceCtorEq, false_iff]
    tauto

theorem svcIndex_lt {c : Cfg} {a : Byte} {i : Nat} (h : svcIndex c a = some i) : i < c.portCount := by
  have := svcIndex_eq_some_iff.1 h
  omega

theorem withSvcPort_some {a : Byte} {s : State} {i : Nat} (act : Nat → State) (h : svcIndex s.cfg a = some i) :
    withSvcPort a s act = act i := by simp [withSvcPort, h]

theorem withSvcPort_none {a : Byte} {s : State} (act : Nat → State) (h : svcIndex s.cfg a = none) :
    withSvcPort a s act = fail .invalidPort s := by simp [withSvcPort, h]

/-! The lowest-index scan (R151, R154, R186). -/

theorem lowest_eq_some_iff {n : Nat} {p : Nat → Bool} {i : Nat} :
    lowest n p = some i ↔ i < n ∧ p i = true ∧ ∀ j < i, p j = false := by
  simp only [lowest, List.find?_range_eq_some, List.mem_range, Bool.not_eq_true']
  tauto

theorem lowest_eq_none_iff {n : Nat} {p : Nat → Bool} : lowest n p = none ↔ ∀ j < n, p j = false := by
  simp [lowest, List.find?_eq_none]

/-! Result words (R108). -/

@[simp] theorem resultWord_code (rc : ResultCode) (d : Half) : (resultWord rc d).extractLsb' 24 8 = rcCode rc := by
  simp only [resultWord]
  ext i hi
  simp only [BitVec.getElem_extractLsb', BitVec.getLsbD_append]
  rw [if_neg (by omega), if_neg (by omega), ← BitVec.getLsbD_eq_getElem]
  congr 1
  omega

@[simp] theorem resultWord_reserved (rc : ResultCode) (d : Half) : (resultWord rc d).extractLsb' 16 8 = 0#8 := by
  simp only [resultWord]
  ext i hi
  simp only [BitVec.getElem_extractLsb', BitVec.getLsbD_append]
  rw [if_neg (by omega), if_pos (by omega)]
  simp

@[simp] theorem resultWord_data (rc : ResultCode) (d : Half) : (resultWord rc d).extractLsb' 0 16 = d := by
  simp only [resultWord]
  ext i hi
  simp only [BitVec.getElem_extractLsb', BitVec.getLsbD_append]
  rw [if_pos (by omega), ← BitVec.getLsbD_eq_getElem]
  simp

theorem rcCode_injective {a b : ResultCode} (h : rcCode a = rcCode b) : a = b := by
  revert h
  cases a <;> cases b <;> decide

/-! CRC-8 (R211). -/

theorem crc8_append (xs ys : List Byte) : crc8 (xs ++ ys) = ys.foldl crc8Step (crc8 xs) := by
  simp [crc8, List.foldl_append]

@[simp] theorem crc8_concat (xs : List Byte) (b : Byte) : crc8 (xs ++ [b]) = crc8Step (crc8 xs) b := by
  simp [crc8_append]

/-! Bit maps (R263, R264). -/

theorem bitmap_getLsbD (n : Nat) (p : Nat → Bool) (i : Nat) :
    (bitmap n p).getLsbD i = (decide (i < 16) && (decide (i < n) && p i)) := by
  have key : ∀ l : List Nat,
      (l.foldr (fun i acc => if i < n && p i then acc ||| (1#16 <<< i) else acc) 0#16).getLsbD i
        = (decide (i < 16) && (decide (i ∈ l) && (decide (i < n) && p i))) := by
    intro l
    induction l with
    | nil => simp
    | cons a l ih =>
      simp only [List.foldr_cons]
      split
      · rename_i h
        simp only [Bool.and_eq_true, decide_eq_true_eq] at h
        simp only [BitVec.getLsbD_or, ih, BitVec.getLsbD_shiftLeft]
        by_cases hia : i = a
        · subst hia
          by_cases hi : i < 16 <;> simp [hi, h]
        · by_cases hi : i < 16
          · by_cases hlt : i < a
            · simp [hi, hia, hlt]
            · have : i - a ≠ 0 := by omega
              simp [hi, hia, hlt, BitVec.getLsbD_one, this]
          · simp [hi]
      · rename_i h
        rw [ih]
        by_cases hia : i = a
        · subst hia
          simp only [Bool.and_eq_true, decide_eq_true_eq, not_and, Bool.not_eq_true] at h
          by_cases hn : i < n
          · simp [h hn]
          · simp [hn]
        · simp [hia]
  rw [bitmap, key]
  by_cases hi : i < 16 <;> simp [hi]

/-! The ring operations keep the storage's canonical form (R32). -/

theorem storeWf_memWrite {s : State} {k : Nat} (i : Nat) (v : Half) (hi : i < (s.cfg.ring k).cap)
    (h : storeWf (s.cfg.ring k).cap (ringAt s k).mem = true) :
    storeWf (s.cfg.ring k).cap (memWrite s k i v) = true := storeWf_storeSet _ hi h

theorem Memory_wf_iff {s : State} :
    Memory.wf s = true ↔
      (∀ k < s.cfg.rbCount, storeWf (s.cfg.ring k).cap (ringAt s k).mem = true) ∧
        storeWf (s.cfg.maxLen.toNat - 1) s.fv.fbuf = true := by
  simp [Memory.wf]

/-- Replacing a ring by one whose storage is canonical keeps the canonical form of the whole state. -/
theorem Memory_wf_setRing {s : State} {k : Nat} {r : Ring} (hk : k < s.rb.length)
    (hr : storeWf (s.cfg.ring k).cap r.mem = true) (h : Memory.wf s = true) :
    Memory.wf (setRing k r s) = true := by
  rw [Memory_wf_iff] at h ⊢
  refine ⟨fun j hj => ?_, h.2⟩
  simp only [setRing_cfg] at hj ⊢
  rw [ringAt_setRing r j hk]
  split
  · rename_i e
    exact e ▸ hr
  · exact h.1 j hj

theorem Memory_wf_ringPush {s : State} {k : Nat} (d : Half) (hk : k < s.rb.length) (hc : k < s.cfg.rbCount)
    (h : Memory.wf s = true) : Memory.wf (ringPush k d s) = true :=
  Memory_wf_setRing hk (storeWf_memWrite _ d (Nat.mod_lt _ (cap_pos _)) ((Memory_wf_iff.1 h).1 k hc)) h

theorem Memory_wf_ringPop {s : State} {k : Nat} (hk : k < s.rb.length) (hc : k < s.cfg.rbCount)
    (h : Memory.wf s = true) : Memory.wf (ringPop k s) = true :=
  Memory_wf_setRing hk ((Memory_wf_iff.1 h).1 k hc) h

/-- Storing a data byte below `MAX_LEN - 1` keeps the canonical form (R217). -/
theorem Memory_wf_rxData {s : State} (b : Byte) (hc : s.fv.cnt.toNat < s.cfg.maxLen.toNat - 1)
    (h : Memory.wf s = true) : Memory.wf (rxData b s) = true := by
  rw [Memory_wf_iff] at h ⊢
  exact ⟨h.1, storeWf_storeSet b hc h.2⟩

/-- A state with the same configuration, rings and frame buffer is as canonical. -/
theorem Memory_wf_congr {s t : State} (hc : t.cfg = s.cfg) (hr : t.rb = s.rb) (hf : t.fv.fbuf = s.fv.fbuf)
    (h : Memory.wf s = true) : Memory.wf t = true := by
  rw [Memory_wf_iff] at h ⊢
  simpa only [hc, hf, ringAt_congr hr] using h

/-- RESET leaves the storage in its canonical form (R300). -/
theorem Memory_wf_resetOf (c : Cfg) : Memory.wf (State.resetOf c) = true := by
  rw [Memory_wf_iff]
  refine ⟨fun k hk => ?_, rfl⟩
  have : ringAt (State.resetOf c) k = Ring.reset := by
    simp only [ringAt, State.resetOf, List.getD_eq_getElem?_getD, List.getElem?_replicate]
    split <;> rfl
  rw [this]
  rfl

theorem Memory_wf_reset : Memory.wf State.reset = true := Memory_wf_resetOf _

/-! The step (R72). -/

/-- What a step that answers a next state did: nothing was to come, or the first input took its effect. -/
theorem step_next_cases {s t : State} (h : step s = .next t) :
    s.cfg.wf = true ∧ ((s.inbox = [] ∧ t = s) ∨ ∃ x rest, s.inbox = x :: rest ∧ react x (s.withInbox rest) = .next t) := by
  unfold step at h
  split at h
  · rename_i hw
    refine ⟨hw, ?_⟩
    split at h
    · rename_i hi
      cases h
      exact .inl ⟨hi, rfl⟩
    · rename_i x rest hi
      exact .inr ⟨x, rest, hi, h⟩
  · cases h

theorem step_of_inbox {s : State} {x : Input} {rest : List Input} (hw : s.cfg.wf = true) (hi : s.inbox = x :: rest) :
    step s = react x (s.withInbox rest) := by
  simp [step, hw, hi]

/-- What taking a command word from a port does (R106). -/
theorem issue_of_decode {p : Port} {w : Word} {i : Instr} {s : State} (hp : portExists s.cfg p = true)
    (hd : decode w = .ok i) : issue p w s = exec i (s.withPort p) := by
  simp [issue, hp, hd]

theorem issue_of_error {p : Port} {w : Word} {e : DecodeError} {s : State} (hp : portExists s.cfg p = true)
    (hd : decode w = .error e) : issue p w s = .next (fail .illegal (s.withPort p)) := by
  simp [issue, hp, hd]

theorem ifEnabled_next {b : Bool} {x : Input} {t u : State} (h : ifEnabled b x t = .next u) : b = true ∧ u = t := by
  unfold ifEnabled at h
  split at h
  · rename_i hb
    cases h
    exact ⟨hb, rfl⟩
  · cases h

end Sys2Proof.Machine
end

