-- ==== Sys2Proof/Laws/PerInstr.lean ====
section
/-! SUPPORT. Per-instruction families: a Statement about every instruction as syntax, and one lemma per constructor. -/

namespace Sys2Proof.Laws

/-- The row of the opcode table with a given mnemonic (R102). -/
def rowNamed (m : String) : Option Row := opcodeRows.find? (fun r => r.mnemonic == m)

/-- The instruction has a row of its own in the opcode table, under its mnemonic, and the top byte of its word is that
row's UNIT and OP (R100, R102). -/
def HasRow.Statement (i : Instr) : Prop :=
  ∃ r, rowNamed (mnemonicOf i) = some r ∧ (encode i).extractLsb' 24 8 = r.value.extractLsb' 24 8

theorem wordR_top (u o : BitVec 4) (a : BitVec 8) (d : BitVec 16) : (wordR u o a d).extractLsb' 24 8 = u ++ o := by
  simp only [wordR]
  refine BitVec.eq_of_getLsbD_eq fun i hi => ?_
  simp only [BitVec.getLsbD_extractLsb', BitVec.getLsbD_append, hi, decide_true, Bool.true_and]
  rw [if_neg (by omega), if_neg (by omega), show 24 + i - 16 - 8 = i by omega]

theorem wordS_top (u o : BitVec 4) (d p : BitVec 12) : (wordS u o d p).extractLsb' 24 8 = u ++ o := by
  simp only [wordS]
  refine BitVec.eq_of_getLsbD_eq fun i hi => ?_
  simp only [BitVec.getLsbD_extractLsb', BitVec.getLsbD_append, hi, decide_true, Bool.true_and]
  rw [if_neg (by omega), if_neg (by omega), show 24 + i - 12 - 12 = i by omega]

theorem HasRow.rbPush (k : BitVec 8) (d : BitVec 16) : HasRow.Statement (.rbPush k d) := ⟨_, rfl, wordR_top ..⟩
theorem HasRow.rbPop (k : BitVec 8) : HasRow.Statement (.rbPop k) := ⟨_, rfl, wordR_top ..⟩
theorem HasRow.rbLen (k : BitVec 8) : HasRow.Statement (.rbLen k) := ⟨_, rfl, wordR_top ..⟩
theorem HasRow.fvRx (b : BitVec 8) : HasRow.Statement (.fvRx b) := ⟨_, rfl, wordR_top ..⟩
theorem HasRow.fvTx : HasRow.Statement .fvTx := ⟨_, rfl, wordR_top ..⟩
theorem HasRow.fvXfer : HasRow.Statement .fvXfer := ⟨_, rfl, wordR_top ..⟩
theorem HasRow.svcReg (a n : BitVec 8) : HasRow.Statement (.svcReg a n) := ⟨_, rfl, wordR_top ..⟩
theorem HasRow.svcDel (a : BitVec 8) : HasRow.Statement (.svcDel a) := ⟨_, rfl, wordR_top ..⟩
theorem HasRow.svcIsreg (a : BitVec 8) : HasRow.Statement (.svcIsreg a) := ⟨_, rfl, wordR_top ..⟩
theorem HasRow.svcPlen (a : BitVec 8) : HasRow.Statement (.svcPlen a) := ⟨_, rfl, wordR_top ..⟩
theorem HasRow.svcNext : HasRow.Statement .svcNext := ⟨_, rfl, wordR_top ..⟩
theorem HasRow.svcRdparam (a j : BitVec 8) : HasRow.Statement (.svcRdparam a j) := ⟨_, rfl, wordR_top ..⟩
theorem HasRow.svcDone (a v : BitVec 8) : HasRow.Statement (.svcDone a v) := ⟨_, rfl, wordR_top ..⟩
theorem HasRow.svcResp (a : BitVec 8) : HasRow.Statement (.svcResp a) := ⟨_, rfl, wordR_top ..⟩
theorem HasRow.schAdd (d p : BitVec 12) : HasRow.Statement (.schAdd d p) := ⟨_, rfl, wordS_top ..⟩
theorem HasRow.schDel (h : BitVec 8) : HasRow.Statement (.schDel h) := ⟨_, rfl, wordR_top ..⟩
theorem HasRow.schNext : HasRow.Statement .schNext := ⟨_, rfl, wordR_top ..⟩
theorem HasRow.schDone (h : BitVec 8) : HasRow.Statement (.schDone h) := ⟨_, rfl, wordR_top ..⟩
theorem HasRow.schRdslot (h : BitVec 8) (sel : BitVec 2) : HasRow.Statement (.schRdslot h sel) := ⟨_, rfl, wordR_top ..⟩
theorem HasRow.csrRead (n : BitVec 8) : HasRow.Statement (.csrRead n) := ⟨_, rfl, wordR_top ..⟩
theorem HasRow.csrWrite (n : BitVec 8) (v : BitVec 16) : HasRow.Statement (.csrWrite n v) := ⟨_, rfl, wordR_top ..⟩

end Sys2Proof.Laws
end

