-- ==== Sys2Proof/Laws/Units.lean ====
section
/-! SUPPORT. What each unit's own update does to the tables of the state, and what an answer is in the words of the
statements: the lemmas the statements about single commands cite. -/

namespace Sys2Proof.Machine

/-! An answer changes no table. -/

variable (s : State)

@[simp] theorem ringAt_respond (rc : ResultCode) (d : Half) (k : Nat) : ringAt (respond rc d s) k = ringAt s k := rfl

@[simp] theorem svcAt_respond (rc : ResultCode) (d : Half) (i : Nat) : svcAt (respond rc d s) i = svcAt s i := rfl

@[simp] theorem slotAt_respond (rc : ResultCode) (d : Half) (j : Nat) : slotAt (respond rc d s) j = slotAt s j := rfl

@[simp] theorem memRead_respond (rc : ResultCode) (d : Half) (k i : Nat) :
    memRead (respond rc d s) k i = memRead s k i := rfl

@[simp] theorem fbufRead_respond (rc : ResultCode) (d : Half) (i : Nat) :
    fbufRead (respond rc d s) i = fbufRead s i := rfl

theorem fail_eq_respond (rc : ResultCode) : fail rc s = respond rc 0#16 s := rfl

variable {s}

/-! Answers in the words of the statements (R12, R13, R30). -/

theorem portNumber_lt_result (h : Ready s) : portNumber s.port < s.result.length := by
  obtain ⟨_, ⟨_, _, _, h, _⟩, hp⟩ := h
  rw [h]
  exact portNumber_lt hp

/-- Answering in a state that has kept the port and the RESULT registers is an answer. -/
theorem answers_respond {t : State} {rc : ResultCode} {d : Half} (h : Ready s) (hr : t.result = s.result)
    (hp : t.port = s.port) : Answers rc d s (respond rc d t) := by
  have hl : portNumber t.port < t.result.length := by
    rw [hr, hp]
    exact portNumber_lt_result h
  refine ⟨?_, fun p hne => ?_⟩
  · rw [resultAt_respond _ _ _ hl, if_pos hp.symm]
  · rw [resultAt_respond _ _ _ hl, if_neg (hp ▸ hne)]
    simp [resultAt, hr]

theorem onlyAnswers_respond {rc : ResultCode} {d : Half} (h : Ready s) : OnlyAnswers rc d s (respond rc d s) :=
  ⟨rfl, answers_respond h rfl rfl⟩

theorem onlyAnswers_fail {rc : ResultCode} (h : Ready s) : OnlyAnswers rc 0#16 s (fail rc s) :=
  onlyAnswers_respond h

/-! Bounds a legal configuration gives (R7). -/

theorem portCount_le {c : Cfg} (h : c.wf = true) : c.portCount ≤ 16 := by
  simp only [Cfg.wf, Cfg.portsOk, Bool.and_eq_true, decide_eq_true_eq] at h
  omega

theorem nslots_le {c : Cfg} (h : c.wf = true) (hs : c.hasSched = true) : c.nslots ≤ 16 := by
  simp only [Cfg.wf, Cfg.slotsOk, hs, Bool.and_eq_true, decide_eq_true_eq, Bool.not_true, Bool.false_or] at h
  omega

theorem hasSched_of_hasTimer {c : Cfg} (h : c.wf = true) (ht : c.hasTimer = true) : c.hasSched = true := by
  simp only [Cfg.wf, Cfg.timerOk, ht, Bool.and_eq_true, Bool.not_true, Bool.false_or] at h
  exact h.1.1.1.1.1.2

theorem slots_length (h : Ready s) (hs : s.cfg.hasSched = true) : s.sch.slots.length = s.cfg.nslots := by
  rw [h.2.1.2.2.1, Cfg.slotCount, if_pos hs]

/-! Operands (R105, R180). -/

theorem onProducer_eq_true_iff {k : BitVec 8} :
    onProducer k s = true ↔ k.toNat < s.cfg.rbCount ∧ s.port = .producer k.toNat := by simp [onProducer]

theorem onConsumer_eq_true_iff {k : BitVec 8} :
    onConsumer k s = true ↔ k.toNat < s.cfg.rbCount ∧ s.port = .consumer k.toNat := by simp [onConsumer]

theorem onHost_eq_true_iff : onHost s = true ↔ s.port = .host := by simp [onHost]

theorem onTransport_eq_true_iff : onTransport s = true ↔ s.port = .transport := by simp [onTransport]

theorem onHostWithSched_eq_true_iff :
    onHostWithSched s = true ↔ s.port = .host ∧ s.cfg.hasSched = true := by simp [onHostWithSched]

theorem svcIndex_of_toNat {c : Cfg} {a : Byte} {i : Nat} (hi : i < c.portCount)
    (ha : a.toNat = c.portBase.toNat + i) : svcIndex c a = some i := by
  rw [svcIndex_eq_some_iff]
  omega

/-! Rings (R33, R131, R132). -/

theorem fullP_eq_true_iff {k : Nat} :
    fullP s k = true ↔ subM (s.cfg.ring k).modulus (ringAt s k).head (ringAt s k).tailP = (s.cfg.ring k).cap :=
  decide_eq_true_iff

theorem emptyC_eq_true_iff {k : Nat} :
    emptyC s k = true ↔ subM (s.cfg.ring k).modulus (ringAt s k).headC (ringAt s k).tail = 0 :=
  decide_eq_true_iff

theorem due_eq_true_iff {j : Nat} :
    due s j = true ↔ (slotAt s j).occ = true ∧ 0 < (slotAt s j).run.toNat := by simp [due]

theorem ringAt_ringPush {k : Nat} (d : Half) (j : Nat) (hk : k < s.rb.length) :
    ringAt (ringPush k d s) j =
      if j = k then
        { ringAt s k with
          mem := memWrite s k ((ringAt s k).head % (s.cfg.ring k).cap) d
          head := addM (s.cfg.ring k).modulus (ringAt s k).head 1
          headC :=
            if (s.cfg.ring k).clocking = .sync then addM (s.cfg.ring k).modulus (ringAt s k).head 1
            else (ringAt s k).headC }
      else ringAt s j := ringAt_setRing _ _ hk

theorem ringAt_ringPop {k : Nat} (j : Nat) (hk : k < s.rb.length) :
    ringAt (ringPop k s) j =
      if j = k then
        { ringAt s k with
          tail := addM (s.cfg.ring k).modulus (ringAt s k).tail 1
          tailP :=
            if (s.cfg.ring k).clocking = .sync then addM (s.cfg.ring k).modulus (ringAt s k).tail 1
            else (ringAt s k).tailP }
      else ringAt s j := ringAt_setRing _ _ hk

/-- A push writes the element's slot and no other (R70, R131). -/
theorem memRead_ringPush {k : Nat} (d : Half) (i : Nat) (hk : k < s.rb.length) :
    memRead (ringPush k d s) k i =
      if i = (ringAt s k).head % (s.cfg.ring k).cap then elementOf (s.cfg.ring k).width d else memRead s k i := by
  simp only [memRead, ringAt_ringPush d k hk, if_true, memWrite]
  split
  · rename_i h
    rw [h, storeGet_storeSet_self]
    rfl
  · rename_i h
    rw [storeGet_storeSet_ne _ _ h]
    rfl

/-- A pop writes no slot (R132). -/
theorem memRead_ringPop {k : Nat} (i : Nat) (hk : k < s.rb.length) : memRead (ringPop k s) k i = memRead s k i := by
  simp only [memRead, ringAt_ringPop k hk, if_true]
  rfl

/-! The frame buffer and the commit (R217, R220). -/

theorem fbufRead_rxData (b : Byte) (j : Nat) :
    fbufRead (rxData b s) j = if j = s.fv.cnt.toNat then b else fbufRead s j := by
  simp only [fbufRead, rxData, withFv_fv, withFv_epoch]
  split
  · rename_i h
    rw [h, storeGet_storeSet_self]
    rfl
  · rename_i h
    rw [storeGet_storeSet_ne _ _ h]

theorem commitParam_getD (n : Nat) (old : List Byte) (j : Nat) :
    (commitParam n s old).getD j 0#8 = if j < n then fbufRead s j else old.getD j 0#8 := by
  simp only [commitParam, List.getD_eq_getElem?_getD, List.getElem?_append, List.length_map, List.length_range,
    List.getElem?_map, List.getElem?_drop]
  split
  · rename_i h
    simp [List.getElem?_range h]
  · rename_i h
    rw [Nat.add_sub_cancel' (by omega)]

theorem length_commitParam {n : Nat} {old : List Byte} (h : n ≤ old.length) :
    (commitParam n s old).length = old.length := by
  simp [commitParam]
  omega

/-- What a received byte can change: the parser and the service table (R213, R275). -/
theorem fvReceive_eq (b : Byte) (s : State) : ∃ svc fv, fvReceive b s = (s.withSvc svc).withFv fv := by
  have commit : ∃ svc fv, fvCommit s = (s.withSvc svc).withFv fv := by
    unfold fvCommit
    dsimp only
    repeat' split
    all_goals exact ⟨_, _, rfl⟩
  unfold fvReceive
  split <;> (first | unfold rxHeader | unfold rxLength | unfold rxPort | unfold rxData | unfold rxChecksum | skip)
  all_goals try dsimp only
  all_goals repeat' split
  all_goals first | exact commit | exact ⟨s.svc, _, rfl⟩

/-- What a start or stop condition can change: the parser (R223). -/
theorem fvTransfer_eq (s : State) : ∃ fv, fvTransfer s = s.withFv fv := by
  unfold fvTransfer
  split <;> exact ⟨_, rfl⟩

/-- A command with a port operand is turned away, or runs on that port's index (R180). -/
theorem withSvcPort_cases (a : Byte) (s : State) (act : Nat → State) :
    (svcIndex s.cfg a = none ∧ withSvcPort a s act = fail .invalidPort s) ∨
      ∃ i < s.cfg.portCount, svcIndex s.cfg a = some i ∧ withSvcPort a s act = act i := by
  cases h : svcIndex s.cfg a with
  | none => exact .inl ⟨rfl, withSvcPort_none act h⟩
  | some i => exact .inr ⟨i, svcIndex_lt h, rfl, withSvcPort_some act h⟩

/-- A command is answered RC_ILLEGAL, or runs on a port where it is legal (R105). -/
theorem ifLegal_next {b : Bool} {s t u : State} (h : ifLegal b s t = .next u) :
    (b = true ∧ u = t) ∨ (b = false ∧ u = fail .illegal s) := by
  cases b <;> cases h <;> simp

/-! The scheduler (R153, R154). -/

theorem slotAt_handOut {j : Nat} (i : Nat) (hj : j < s.sch.slots.length) :
    slotAt (handOut j s) i = if i = j then { slotAt s j with run := (slotAt s j).run - 1#8 } else slotAt s i :=
  slotAt_setSlot _ i hj

@[simp] theorem tickSlot_empty : tickSlot Slot.empty = Slot.empty := rfl

theorem slotAt_tickAll (j : Nat) : slotAt (tickAll s) j = tickSlot (slotAt s j) := by
  simp only [slotAt, tickAll, withSch_sch, List.getD_eq_getElem?_getD, List.getElem?_map]
  cases s.sch.slots[j]? <;> rfl

theorem slotTicked_tickSlot (x : Slot) : SlotTicked x (tickSlot x) := by
  by_cases ho : x.occ = true <;> by_cases hd : x.delay = 0#12 <;>
    simp [SlotTicked, tickSlot, ho, hd, BitVec.toNat_ofNat]

theorem slotsTicked_tickAll (s : State) : SlotsTicked s (tickAll s) :=
  ⟨⟨rfl, rfl, rfl⟩, fun j _ => slotAt_tickAll j ▸ slotTicked_tickSlot _⟩

@[simp] theorem tickSlot_occ (x : Slot) : (tickSlot x).occ = x.occ := by
  unfold tickSlot
  split
  · split <;> rfl
  · rfl

@[simp] theorem tickSlot_period (x : Slot) : (tickSlot x).period = x.period := by
  unfold tickSlot
  split
  · split <;> rfl
  · rfl

end Sys2Proof.Machine
end

