-- ==== Sys2Proof/Tests/Slice0.lean ====
section
/-! SUPPORT. Tests of the model: expected values are those of spec/95_test_vectors.md (section named at each group), and
for every statement of Certificates/Slice0 that has hypotheses a witness that meets them, in each of its cases. -/

namespace Sys2Proof.Tests

set_option Elab.async false

open Sys2Proof Sys2Proof.Machine

/-! Helpers. -/

/-- Apply inputs in order, skipping one that does not answer a next state. -/
def run (l : List Input) (s : State) : State :=
  l.foldl (fun s x => match react x s with | .next t => t | .fault _ => s | .refused _ => s) s

/-- The next state of an outcome, for the witnesses. -/
def nextOf : Out → Option State
  | .next t => some t
  | .fault _ => none
  | .refused _ => none

/-- The reason of a refusal. -/
def refusalOf : Out → Option Refusal
  | .next _ => none
  | .fault _ => none
  | .refused r => some r

/-- The RESULT a command leaves on the port it is issued on. -/
def answer (p : Port) (i : Instr) (s : State) : Option Word :=
  (nextOf (exec i (s.withPort p))).map (fun t => resultAt t p)

/-- The same for a raw word. -/
def answerWord (p : Port) (w : Word) (s : State) : Option Word :=
  (nextOf (issue p w s)).map (fun t => resultAt t p)

def host (w : Word) : Input := .command .host w

def tp (w : Word) : Input := .command .transport w

def p0 (w : Word) : Input := .command (.producer 0) w

def c0 (w : Word) : Input := .command (.consumer 0) w

/-- Received bytes. -/
def rx (bs : List Byte) : List Input := bs.map (fun b => tp (encode (.fvRx b)))

def asyncCfg : Cfg := { Cfg.ref with rings := [⟨3, .w8, .async⟩] }

/-- No scheduler, no timer (section 2.1, absent units). -/
def bareCfg : Cfg := { Cfg.ref with hasSched := false, nslots := 0, hasTimer := false }

/-- Every parameter at its smallest. -/
def smallCfg : Cfg :=
  { Cfg.ref with rings := [⟨0, .w16, .sync⟩], nslots := 1, portCount := 1, maxLen := 1#8, portBase := 0x00#8 }

/-- Every parameter at its largest. -/
def largeCfg : Cfg :=
  { Cfg.ref with
    rings := List.replicate 16 ⟨15, .w16, .async⟩, nslots := 16, portCount := 16, maxLen := 255#8, portBase := 0xF0#8 }

def onPort (c : Cfg) (p : Port) : State := (State.resetOf c).withPort p

/-- Services of section 2.5: 0x10 with 0 bytes, 0x11 with 2, 0x12 with 1. -/
def served : State := run [host 0x20100000#32, host 0x20110002#32, host 0x20120001#32] State.reset

/-- After the frame of E10: port 0x11 (index 1) is pending. -/
def pending : State := run (rx [0xA5, 0x03, 0x11, 0xAA, 0xBB, 0x7D]) served

/-- The ring of REF with seven, and with eight elements. -/
def seven : State :=
  run ([0xA0#32, 0xA1#32, 0xA2#32, 0xA3#32, 0xA4#32, 0xA5#32, 0xA6#32].map p0) State.reset

def full : State := run [p0 0xA7#32] seven

/-- Section 2.3 after row 18: head 9, tail 1, tail_p 1, head_c 1. -/
def asyncMid : State :=
  run ([p0 0x10#32, .syncC 0 1, c0 0x01000000#32] ++
    [0x11#32, 0x12#32, 0x13#32, 0x14#32, 0x15#32, 0x16#32, 0x17#32].map p0 ++ [.syncP 0 1, p0 0x18#32])
    (State.resetOf asyncCfg)

/-- Section 2.3, end state: head 9, tail 5, tail_p 1, head_c 9. -/
def asyncEnd : State :=
  run [.syncC 0 5, c0 0x01000000#32, c0 0x01000000#32, c0 0x01000000#32, c0 0x01000000#32, .syncC 0 9] asyncMid

/-- REF with the external tick in place of the timer (R161), where a TICK is an input of its own. -/
def tickCfg : Cfg := { Cfg.ref with hasTimer := false }

/-- Section 2.9 after row 4, in REF and with the external tick; and in flight after row 8. -/
def tasksIn (c : Cfg) : State :=
  run [host 0x30000000#32, host 0x30000001#32, host 0x30005002#32, host 0x30FFFFFF#32] (State.resetOf c)

def tasks : State := tasksIn Cfg.ref

def tasksExt : State := tasksIn tickCfg

def inFlight : State := run [host 0x32000000#32] tasks

def inFlightExt : State := run [host 0x32000000#32] tasksExt

/-- Section 2.10 after row 5: reload 2, count 2, running. -/
def ticking : State := run [host 0x30001001#32, host 0x41310002#32, host 0x41300001#32] State.reset

/-! Configurations (R7). -/

theorem test_cfg_ref_wf : Cfg.ref.wf = true := by decide
theorem test_cfg_async_wf : asyncCfg.wf = true := by decide
theorem test_cfg_bare_wf : bareCfg.wf = true := by decide
theorem test_cfg_small_wf : smallCfg.wf = true := by decide
theorem test_cfg_large_wf : largeCfg.wf = true := by decide +kernel

/-- The check refuses the configuration, and so does a step on it. -/
def refused (check : Cfg → Bool) (c : Cfg) : Bool :=
  check c == false && c.wf == false && refusalOf (step (State.resetOf c)) == some .refusedConfiguration

theorem test_wf_rings_none : refused Cfg.ringsOk { Cfg.ref with rings := [] } = true := by decide +kernel
theorem test_wf_rings_seventeen :
    refused Cfg.ringsOk { Cfg.ref with rings := List.replicate 17 ⟨3, .w8, .sync⟩ } = true := by decide +kernel
theorem test_wf_rings_aw : refused Cfg.ringsOk { Cfg.ref with rings := [⟨16, .w8, .sync⟩] } = true := by decide +kernel
theorem test_wf_slots_zero : refused Cfg.slotsOk { Cfg.ref with nslots := 0 } = true := by decide +kernel
theorem test_wf_slots_seventeen : refused Cfg.slotsOk { Cfg.ref with nslots := 17 } = true := by decide +kernel
theorem test_wf_timer : refused Cfg.timerOk { Cfg.ref with hasSched := false } = true := by decide +kernel
theorem test_wf_ports_zero : refused Cfg.portsOk { Cfg.ref with portCount := 0 } = true := by decide +kernel
theorem test_wf_ports_seventeen : refused Cfg.portsOk { Cfg.ref with portCount := 17 } = true := by decide +kernel
theorem test_wf_ports_end : refused Cfg.portsOk { Cfg.ref with portBase := 0xFD#8 } = true := by decide +kernel
theorem test_wf_maxLen : refused Cfg.maxLenOk { Cfg.ref with maxLen := 0#8 } = true := by decide +kernel
theorem test_wf_headers_equal : refused Cfg.headersOk { Cfg.ref with statusHeader := 0xA5#8 } = true := by
  decide +kernel
theorem test_wf_headers_svc_port : refused Cfg.headersOk { Cfg.ref with svcHeader := 0x10#8 } = true := by
  decide +kernel
theorem test_wf_headers_status_port : refused Cfg.headersOk { Cfg.ref with statusHeader := 0x13#8 } = true := by
  decide +kernel
theorem test_wf_codes :
    refused Cfg.codesOk { Cfg.ref with ws := { WireCodes.ref with busy := 0x00#8 } } = true := by decide +kernel
theorem test_wf_base : refused Cfg.baseOk { Cfg.ref with blockBase := 4 } = true := by decide +kernel
theorem test_wf_instr_ring : Instr.wf Cfg.ref (.rbPush 1#8 5#16) = false := by decide
theorem test_wf_instr_sched : Instr.wf bareCfg .schNext = false := by decide

/-! Decoding (section 2.1, the table of words and the table of illegal words). -/

theorem test_decode_rbPush : decode 0x00001234#32 = .ok (.rbPush 0#8 0x1234#16) := by decide
theorem test_decode_rbPop : decode 0x01000000#32 = .ok (.rbPop 0#8) := by decide
theorem test_decode_rbLen : decode 0x02000000#32 = .ok (.rbLen 0#8) := by decide
theorem test_decode_fvRx : decode 0x100000A5#32 = .ok (.fvRx 0xA5#8) := by decide
theorem test_decode_fvTx : decode 0x11000000#32 = .ok .fvTx := by decide
theorem test_decode_fvXfer : decode 0x12000000#32 = .ok .fvXfer := by decide
theorem test_decode_svcReg : decode 0x20110002#32 = .ok (.svcReg 0x11#8 2#8) := by decide
theorem test_decode_svcDel : decode 0x21110000#32 = .ok (.svcDel 0x11#8) := by decide
theorem test_decode_svcIsreg : decode 0x22120000#32 = .ok (.svcIsreg 0x12#8) := by decide
theorem test_decode_svcPlen : decode 0x23130000#32 = .ok (.svcPlen 0x13#8) := by decide
theorem test_decode_svcNext : decode 0x24000000#32 = .ok .svcNext := by decide
theorem test_decode_svcRdparam : decode 0x25110001#32 = .ok (.svcRdparam 0x11#8 1#8) := by decide
theorem test_decode_svcDone : decode 0x26110042#32 = .ok (.svcDone 0x11#8 0x42#8) := by decide
theorem test_decode_svcResp : decode 0x27100000#32 = .ok (.svcResp 0x10#8) := by decide
theorem test_decode_schAdd : decode 0x30123456#32 = .ok (.schAdd 0x123#12 0x456#12) := by decide
theorem test_decode_schDel : decode 0x31030000#32 = .ok (.schDel 3#8) := by decide
theorem test_decode_schNext : decode 0x32000000#32 = .ok .schNext := by decide
theorem test_decode_schDone : decode 0x33010000#32 = .ok (.schDone 1#8) := by decide
theorem test_decode_schRdslot : decode 0x34020003#32 = .ok (.schRdslot 2#8 3#2) := by decide
theorem test_decode_csrRead : decode 0x40400000#32 = .ok (.csrRead 0x40#8) := by decide
theorem test_decode_csrWrite : decode 0x413103E7#32 = .ok (.csrWrite 0x31#8 0x3E7#16) := by decide

theorem test_illegal_unit : decode 0x50000000#32 = .error (.reservedUnit 5) := by decide
theorem test_illegal_op : decode 0x28000000#32 = .error (.reservedOp 2 8) := by decide
theorem test_illegal_zero_rbPop : decode 0x01000001#32 = .error (.mustBeZero 0 1) := by decide
theorem test_illegal_zero_fvRx_a : decode 0x10010041#32 = .error (.mustBeZero 1 0) := by decide
theorem test_illegal_zero_fvRx_d : decode 0x10000141#32 = .error (.mustBeZero 1 0) := by decide
theorem test_illegal_zero_svcNext : decode 0x24010000#32 = .error (.mustBeZero 2 4) := by decide
theorem test_illegal_zero_schRdslot : decode 0x34000004#32 = .error (.mustBeZero 3 4) := by decide
theorem test_illegal_words_select_no_row :
    ([0x50000000#32, 0xF0000000#32, 0x03000000#32, 0x13000000#32, 0x28000000#32, 0x35000000#32, 0x42000000#32,
      0x01000001#32, 0x10010041#32, 0x11000001#32, 0x20110102#32, 0x40000001#32].all
        (fun w => opcodeRows.all (fun r => !r.selects w))) = true := by decide +kernel

/-- R106: no word matches two rows: any two rows differ in a bit both masks cover. -/
theorem test_rows_disjoint :
    List.Pairwise (fun r q : Row => r.value &&& q.mask &&& r.mask ≠ q.value &&& r.mask &&& q.mask) opcodeRows := by
  decide +kernel

/-- The host's two questions, on the word of SCH_ADD: it decodes, and the next step runs it (R106). -/
theorem test_tableWord : decodeTableWord 32 0x30001002 = some (.schAdd 1#12 2#12) := by decide
theorem test_withFetchWord :
    (nextOf (step (State.reset.withFetchWord 32 0x30001002))).map (fun t => slotAt t 0) =
      some ⟨true, 0#12, 2#12, 0#8⟩ := by decide +kernel

/-! One step of each command. -/

theorem test_rbPush_rule : answer (.producer 0) (.rbPush 0#8 0x41#16) State.reset = some 0x00000000#32 ∧
    (run [p0 0x00000041#32] State.reset).rb = [⟨1, 0, 0, 1, [(0, 0x41#16)]⟩] := by decide +kernel
theorem test_rbPush_full : answer (.producer 0) (.rbPush 0#8 0xFF#16) full = some 0x01000000#32 := by decide +kernel
theorem test_rbPop_oldest : answer (.consumer 0) (.rbPop 0#8) full = some 0x000000A0#32 := by decide +kernel
theorem test_rbPop_empty : answer (.consumer 0) (.rbPop 0#8) State.reset = some 0x02000000#32 := by decide +kernel
theorem test_rbLen_producer : answer (.producer 0) (.rbLen 0#8) asyncEnd = some 0x00000008#32 := by decide +kernel
theorem test_rbLen_consumer : answer (.consumer 0) (.rbLen 0#8) asyncEnd = some 0x00000004#32 := by decide +kernel
theorem test_fvRx_frame : pending.fv.st = .header ∧ pending.fv.fstatus = 0x00#8 ∧ (svcAt pending 1).pending = true ∧
    (svcAt pending 1).param.take 2 = [0xAA#8, 0xBB#8] := by decide +kernel
theorem test_fvRx_bad_checksum : (run (rx [0xA5, 0x03, 0x11, 0xAA, 0xBB, 0x7C]) served).fv.fstatus = 0x07#8 := by
  decide +kernel
theorem test_fvTx_status : answer .transport .fvTx (run (rx [0xA6]) pending) = some 0x00000000#32 := by decide +kernel
theorem test_fvTx_no_query : answer .transport .fvTx pending = some 0x000000FF#32 := by decide +kernel
theorem test_fvXfer_recovers :
    (run (rx [0x00] ++ [tp 0x12000000#32]) served).fv.st = .header ∧
      (run (rx [0x00] ++ [tp 0x12000000#32]) served).fv.fstatus = 0x02#8 := by decide +kernel
theorem test_fvXfer_cuts : (run (rx [0xA5, 0x03] ++ [tp 0x12000000#32]) served).fv.fstatus = 0x03#8 := by
  decide +kernel
theorem test_svcReg_largest : answer .host (.svcReg 0x10#8 7#8) State.reset = some 0x00000000#32 := by decide +kernel
theorem test_svcReg_too_long : answer .host (.svcReg 0x10#8 8#8) State.reset = some 0x08000000#32 := by decide +kernel
theorem test_svcDel_discards : (run [host 0x21110000#32] pending).svc.map (·.pending) = List.replicate 4 false := by
  decide +kernel
theorem test_svcDel_range : answer .host (.svcDel 0x20#8) pending = some 0x05000000#32 := by decide +kernel
theorem test_svcIsreg : answer .host (.svcIsreg 0x11#8) pending = some 0x00000001#32 := by decide +kernel
theorem test_svcPlen : answer .host (.svcPlen 0x11#8) pending = some 0x00000002#32 := by decide +kernel
theorem test_svcNext_port : answer .host .svcNext pending = some 0x00000011#32 := by decide +kernel
theorem test_svcNext_none : answer .host .svcNext (run [host 0x24000000#32] pending) = some 0x0A000000#32 := by
  decide +kernel
theorem test_svcRdparam_byte : answer .host (.svcRdparam 0x11#8 1#8) pending = some 0x000000BB#32 := by decide +kernel
theorem test_svcRdparam_index : answer .host (.svcRdparam 0x11#8 2#8) pending = some 0x09000000#32 := by decide +kernel
theorem test_svcDone_stores : answer .host (.svcResp 0x11#8) (run [host 0x26110042#32] pending) = some 0x00000042#32 := by
  decide +kernel
theorem test_svcDone_sequence : answer .host (.svcDone 0x10#8 0#8) pending = some 0x0B000000#32 := by decide +kernel
theorem test_svcResp_unknown : answer .host (.svcResp 0x13#8) pending = some 0x000000FF#32 := by decide +kernel
theorem test_schAdd_slots : tasks.sch.slots =
    [⟨true, 0#12, 0#12, 1#8⟩, ⟨true, 0#12, 1#12, 1#8⟩, ⟨true, 4#12, 2#12, 0#8⟩, ⟨true, 4094#12, 4095#12, 0#8⟩] := by
  decide +kernel
theorem test_schAdd_full : answer .host (.schAdd 1#12 0#12) tasks = some 0x03000000#32 := by decide +kernel
theorem test_schDel_in_flight : answer .host (.schDel 3#8) inFlight = some 0x0B000000#32 := by decide +kernel
theorem test_schDel_range : answer .host (.schDel 4#8) tasks = some 0x04000000#32 := by decide +kernel
theorem test_schNext_order : answer .host .schNext (run [host 0x33000000#32] inFlight) = some 0x00000001#32 := by
  decide +kernel
theorem test_schNext_reentry : answer .host .schNext inFlight = some 0x0B000000#32 := by decide +kernel
theorem test_schDone_range_first : answer .host (.schDone 4#8) inFlight = some 0x04000000#32 := by decide +kernel
theorem test_schDone_frees : slotAt (run [.tick, host 0x33000000#32] inFlightExt) 0 = Slot.empty := by decide +kernel
theorem test_schRdslot_period : answer .host (.schRdslot 3#8 1#2) tasks = some 0x00000FFF#32 := by decide +kernel
theorem test_schRdslot_range : answer .host (.schRdslot 4#8 0#2) tasks = some 0x04000000#32 := by decide +kernel
theorem test_csrRead_schstat : answer .host (.csrRead 0x52#8) inFlight = some 0x00000201#32 := by decide +kernel
/-- Section 2.11: every CSR after RESET, and only those. -/
theorem test_csrRead_reset_map :
    ((List.range 256).filterMap (fun n => (csrValue State.reset n).map (fun v => (n, v.toNat)))) =
      [(0x00, 0x0461), (0x01, 0x0410), (0x02, 0xA508), (0x03, 0x00A6), (0x10, 0x0003), (0x20, 0x0001), (0x30, 0), (0x31, 0),
        (0x32, 0), (0x40, 0x00FF), (0x41, 0), (0x42, 0), (0x43, 0), (0x50, 0), (0x51, 0), (0x52, 0)] := by decide +kernel
theorem test_csrWrite_enable : ticking.tmr = ⟨true, 2#16, 2#16⟩ := by decide +kernel
theorem test_csrWrite_read_only : answer .host (.csrWrite 0x00#8 5#16) State.reset = some 0x0C000000#32 := by
  decide +kernel

/-! Events, ports and the bus (sections 2.1, 2.3, 2.10, 2.12). -/

theorem test_wrong_port : answer (.consumer 0) (.rbPush 0#8 0x41#16) State.reset = some 0x0C000000#32 := by
  decide +kernel
theorem test_absent_unit : answer .host .schNext (State.resetOf bareCfg) = some 0x0C000000#32 := by decide +kernel
theorem test_timer_expiry : (run [.tmrClk, .tmrClk, .tmrClk] ticking).tmr.count = 2#16 ∧
    (slotAt (run [.tmrClk, .tmrClk, .tmrClk] ticking) 0).run = 1#8 := by decide +kernel
/-- R153, R301: a block with a timer takes no TICK input; one without a timer, and with a scheduler, does. -/
theorem test_tick_source : refusalOf (react .tick ticking) = some (.eventNotEnabled .tick) ∧
    refusalOf (react .tick (State.resetOf bareCfg)) = some (.eventNotEnabled .tick) ∧
    (slotAt (run [.tick] tasksExt) 2).delay = 3#12 := by decide +kernel
/-- The enabling conditions of section 2.3. -/
theorem test_sync_enabled :
    (List.range 16).filter (fun v => syncPEnabled 0 v asyncEnd) = [1, 2, 3, 4, 5] ∧
      (List.range 16).filter (fun v => syncCEnabled 0 v asyncEnd) = [9] := by decide +kernel
theorem test_reset_clears : run [.reset] pending = { State.reset with epoch := 1 } := by decide +kernel
theorem test_bus_issues : (run [.busWrite 16 4 0x00000041#32] State.reset).rb = [⟨1, 0, 0, 1, [(0, 0x41#16)]⟩] := by
  decide +kernel
theorem test_bus_misaligned : run [.busWrite 18 4 0x00000041#32] State.reset = { State.reset with bus := .error } := by
  decide +kernel

/-! CRC-8 and the assembler's macros (sections 2.4 and 1, R111). -/

theorem test_crc_check_value : crc8 [0x31, 0x32, 0x33, 0x34, 0x35, 0x36, 0x37, 0x38, 0x39] = 0xDA#8 := by decide +kernel
theorem test_crc_frame : crc8 [0xA5, 0x03, 0x11, 0xAA, 0xBB] = 0x7D#8 := by decide +kernel
theorem test_asm : asmLine .host (.schAdd 1#12 2#12) = "host: sch.add 1, 2" := by decide +kernel
theorem test_macro_frame : (pseudoInputs Cfg.ref (.fvFrame 0x11#8 [0xAA#8, 0xBB#8])) =
    [tp 0x12000000#32] ++ rx [0xA5, 0x03, 0x11, 0xAA, 0xBB, 0x7D] ++ [tp 0x12000000#32] := by decide +kernel

/-! Witnesses: for every statement with hypotheses, states and operands that meet them, in each of its cases and at the
ends of the ranges. -/

theorem ready_ref_host : Ready State.reset := by decide +kernel
theorem ready_served_tp : Ready (served.withPort .transport) := by decide +kernel
theorem ready_large_last_port : Ready (onPort largeCfg (.consumer 15)) := by decide +kernel

theorem inv_reset : Inv State.reset := by refine ⟨?_, ?_, ?_, ?_, ?_, ?_, ?_, ?_, ?_⟩ <;> decide +kernel
theorem inv_small : Inv (State.resetOf smallCfg) := by refine ⟨?_, ?_, ?_, ?_, ?_, ?_, ?_, ?_, ?_⟩ <;> decide +kernel
theorem inv_pending : Inv pending := by refine ⟨?_, ?_, ?_, ?_, ?_, ?_, ?_, ?_, ?_⟩ <;> decide +kernel
theorem inv_seven : Inv (seven.withPort (.producer 0)) := by
  refine ⟨?_, ?_, ?_, ?_, ?_, ?_, ?_, ?_, ?_⟩ <;> decide +kernel
theorem inv_full : Inv (full.withPort (.consumer 0)) := by
  refine ⟨?_, ?_, ?_, ?_, ?_, ?_, ?_, ?_, ?_⟩ <;> decide +kernel
theorem inv_asyncMid : Inv asyncMid := by refine ⟨?_, ?_, ?_, ?_, ?_, ?_, ?_, ?_, ?_⟩ <;> decide +kernel
theorem inv_asyncEnd : Inv asyncEnd := by refine ⟨?_, ?_, ?_, ?_, ?_, ?_, ?_, ?_, ?_⟩ <;> decide +kernel
theorem inv_inFlight : Inv inFlight := by refine ⟨?_, ?_, ?_, ?_, ?_, ?_, ?_, ?_, ?_⟩ <;> decide +kernel
theorem inv_inFlightExt : Inv inFlightExt := by refine ⟨?_, ?_, ?_, ?_, ?_, ?_, ?_, ?_, ?_⟩ <;> decide +kernel
theorem inv_ticking : Inv ticking := by refine ⟨?_, ?_, ?_, ?_, ?_, ?_, ?_, ?_, ?_⟩ <;> decide +kernel
theorem inv_in_data : Inv (run (rx [0xA5, 0x03, 0x11, 0xAA]) served) := by
  refine ⟨?_, ?_, ?_, ?_, ?_, ?_, ?_, ?_, ?_⟩ <;> decide +kernel
theorem inv_in_checksum : Inv (run (rx [0xA5, 0x03, 0x11, 0xAA, 0xBB]) served) := by
  refine ⟨?_, ?_, ?_, ?_, ?_, ?_, ?_, ?_, ?_⟩ <;> decide +kernel

/-- DecodeAndEncodeAgree, DecoderFollowsOpcodeTable, UnselectedWordIsIllegal: a word of a row, and a word of none. -/
theorem witness_decode : decode 0x30FFFFFF#32 = .ok (.schAdd 0xFFF#12 0xFFF#12) ∧
    (opcodeRows.any (fun r => 0x30FFFFFF#32 &&& r.mask == r.value)) = true ∧
    (opcodeRows.all (fun r => 0x50000000#32 &&& r.mask != r.value)) = true := by decide +kernel

/-- StepRunsDecodedCommand, EveryCommandCompletes, UnselectedWordIsIllegal: an input that is a command. -/
theorem witness_command_input :
    let s := State.reset.withInbox [host 0x24000000#32, host 0x50000000#32]
    s.cfg.wf = true ∧ Shaped s ∧ s.inbox = .command .host 0x24000000#32 :: [host 0x50000000#32] ∧
      portExists s.cfg .host = true ∧ decode 0x24000000#32 = .ok .svcNext := by decide +kernel

theorem witness_illegal_input :
    let s := State.reset.withInbox [host 0x50000000#32]
    s.cfg.wf = true ∧ Shaped s ∧ s.inbox = .command .host 0x50000000#32 :: [] ∧ portExists s.cfg .host = true := by
  decide +kernel

/-- WrongPortIsIllegal: every row of its table, a ring that does not exist and an absent scheduler among them. -/
theorem witness_wrong_port :
    Ready (onPort Cfg.ref (.consumer 0)) ∧ (onPort Cfg.ref (.consumer 0)).port ≠ .producer 0 ∧
      Ready (onPort Cfg.ref (.producer 0)) ∧ ¬ (0x01#8).toNat < Cfg.ref.rbCount ∧
      (onPort Cfg.ref (.producer 0)).port ≠ .consumer 0 ∧
      (State.reset.port ≠ .producer 0 ∧ State.reset.port ≠ .consumer 0) ∧ State.reset.port ≠ .transport ∧
      (onPort Cfg.ref .transport).port ≠ .host ∧ Ready (onPort Cfg.ref .transport) ∧
      (Ready (State.resetOf bareCfg) ∧ (State.resetOf bareCfg).cfg.hasSched = false) := by decide +kernel

/-- The next state of a command on a port exists and a field of it is no longer as before. -/
def changes {α : Type} (p : Port) (i : Instr) (s : State) (field : State → α) (same : α → α → Bool) : Bool :=
  match exec i (s.withPort p) with
  | .next t => !same (field t) (field s)
  | .fault _ => false
  | .refused _ => false

/-- CommandsStayInTheirUnit: each kind of state is changed by a command. -/
theorem witness_unit_changes :
    changes (.producer 0) (.rbPush 0#8 1#16) State.reset (fun s => (ringAt s 0).head) (· == ·) = true ∧
      changes (.consumer 0) (.rbPop 0#8) full (fun s => (ringAt s 0).tail) (· == ·) = true ∧
      changes (.consumer 0) (.rbPop 0#8) full (·.rb) (· == ·) = true ∧
      changes .transport (.fvRx 0xA5#8) State.reset (·.fv) (· == ·) = true ∧
      changes .transport (.fvRx 0x7D#8) (run (rx [0xA5, 0x03, 0x11, 0xAA, 0xBB]) served) (·.svc) (· == ·) = true ∧
      changes .host (.svcDel 0x11#8) pending (·.svc) (· == ·) = true ∧
      changes .host .svcNext pending (·.ssp) (· == ·) = true ∧ changes .host .schNext tasks (·.sch) (· == ·) = true ∧
      changes .host (.csrWrite 0x31#8 1#16) State.reset (·.tmr) (· == ·) = true := by decide +kernel

/-- OnlyGoodFramesWriteTheTable: the last byte of a good frame. -/
theorem witness_commit :
    (nextOf (exec (.fvRx 0x7D#8) ((run (rx [0xA5, 0x03, 0x11, 0xAA, 0xBB]) served).withPort .transport))).map (·.svc)
      ≠ some (run (rx [0xA5, 0x03, 0x11, 0xAA, 0xBB]) served).svc ∧
    (exec (.fvRx 0x7D#8) ((run (rx [0xA5, 0x03, 0x11, 0xAA, 0xBB]) served).withPort .transport)
      matches .next _) = true := by decide +kernel

/-- RbPushStoresAtHead: room for one more element, full, a ring of one slot, and the last ring of an ASYNC block. -/
theorem witness_rbPush :
    (let s := seven.withPort (.producer 0)
     Ready s ∧ (0#8).toNat < s.cfg.rbCount ∧ s.port = .producer (0#8).toNat ∧
       subM (s.cfg.ring 0).modulus (ringAt s 0).head (ringAt s 0).tailP ≠ (s.cfg.ring 0).cap) ∧
    (let s := full.withPort (.producer 0)
     Ready s ∧ s.port = .producer (0#8).toNat ∧
       subM (s.cfg.ring 0).modulus (ringAt s 0).head (ringAt s 0).tailP = (s.cfg.ring 0).cap) ∧
    (let s := run [.command (.producer 0) 0x0000BEEF#32] (State.resetOf smallCfg)
     Ready s ∧ s.port = .producer (0#8).toNat ∧ (ringAt s 0).mem = [(0, 0xBEEF#16)] ∧
       subM (s.cfg.ring 0).modulus (ringAt s 0).head (ringAt s 0).tailP = (s.cfg.ring 0).cap) ∧
    (let s := onPort largeCfg (.producer 15)
     Ready s ∧ (15#8).toNat < s.cfg.rbCount ∧ s.port = .producer (15#8).toNat ∧ (s.cfg.ring 15).clocking = .async) := by
  decide +kernel

/-- RbPopReadsAtTail, RbLenReadsOwnSide: empty, one element left, and a lagging `head_c`. -/
theorem witness_rbPop :
    (let s := onPort Cfg.ref (.consumer 0)
     Ready s ∧ s.port = .consumer (0#8).toNat ∧
       subM (s.cfg.ring 0).modulus (ringAt s 0).headC (ringAt s 0).tail = 0) ∧
    (let s := (run [p0 0x41#32] State.reset).withPort (.consumer 0)
     Ready s ∧ (0#8).toNat < s.cfg.rbCount ∧ s.port = .consumer (0#8).toNat ∧
       subM (s.cfg.ring 0).modulus (ringAt s 0).headC (ringAt s 0).tail = 1) ∧
    (let s := asyncMid.withPort (.consumer 0)
     Ready s ∧ s.port = .consumer (0#8).toNat ∧ count s 0 = 8 ∧
       subM (s.cfg.ring 0).modulus (ringAt s 0).headC (ringAt s 0).tail = 0) := by decide +kernel

/-- PushAppendsAndPopTakesOldest (with inv_seven and inv_full): the last free slot, and the oldest of eight. -/
theorem witness_queue :
    (let s := seven.withPort (.producer 0)
     s.port = .producer (0#8).toNat ∧
       subM (s.cfg.ring 0).modulus (ringAt s 0).head (ringAt s 0).tailP ≠ (s.cfg.ring 0).cap ∧
       (exec (.rbPush 0#8 0xA7#16) s matches .next _) = true) ∧
    (let s := full.withPort (.consumer 0)
     s.port = .consumer (0#8).toNat ∧ subM (s.cfg.ring 0).modulus (ringAt s 0).headC (ringAt s 0).tail ≠ 0 ∧
       (exec (.rbPop 0#8) s matches .next _) = true) := by decide +kernel

/-- A state still satisfies the invariant's hypotheses of a step with this input, and the step answers a next state. -/
def stepsOn (x : Input) (s : State) : Bool :=
  (s.inbox == []) && (step (s.withInbox [x]) matches .next _) && decide (x ≠ .reset)

/-- EveryStepIsAQueueStep and the invariants (with the `inv_` theorems, which `inbox` does not enter): every kind of
input answers a next state. -/
theorem witness_steps :
    stepsOn (p0 0x41#32) seven = true ∧ stepsOn (c0 0x01000000#32) full = true ∧ stepsOn (.syncP 0 1) asyncEnd = true ∧
      stepsOn (.syncC 0 5) asyncMid = true ∧ stepsOn .tick inFlightExt = true ∧ stepsOn .tmrClk ticking = true ∧
      stepsOn (tp 0x1000007D#32) (run (rx [0xA5, 0x03, 0x11, 0xAA, 0xBB]) served) = true ∧
      stepsOn (host 0x24000000#32) pending = true ∧ stepsOn (.busRead 4 4) pending = true := by decide +kernel

/-- The invariant does not read the inbox. -/
theorem inv_withInbox {s : State} (l : List Input) (h : Inv s) : Inv (s.withInbox l) := h

theorem witness_inv_step : Inv (inFlightExt.withInbox [.tick]) ∧
    (step (inFlightExt.withInbox [.tick]) matches .next _) = true ∧ ResultsOk (inFlightExt.withInbox [.tick]) :=
  ⟨inv_withInbox _ inv_inFlightExt, by decide +kernel, by decide +kernel⟩

/-- SynchronisersSampleCursors: each end of both intervals, one past each end, and a SYNC ring. -/
theorem witness_sync :
    (let s := asyncEnd.withInbox [.syncP 0 5]
     Ready s ∧ s.inbox = .syncP 0 5 :: [] ∧ 5 < (s.cfg.ring 0).modulus ∧ (s.cfg.ring 0).clocking = .async ∧
       subM 16 5 (ringAt s 0).tailP = subM 16 (ringAt s 0).tail (ringAt s 0).tailP ∧
       subM 16 1 (ringAt s 0).tailP = 0 ∧
       ¬ subM 16 6 (ringAt s 0).tailP ≤ subM 16 (ringAt s 0).tail (ringAt s 0).tailP ∧
       ¬ subM 16 0 (ringAt s 0).tailP ≤ subM 16 (ringAt s 0).tail (ringAt s 0).tailP) ∧
    (let s := asyncMid.withInbox [.syncC 0 9]
     Ready s ∧ s.inbox = .syncC 0 9 :: [] ∧ 9 < (s.cfg.ring 0).modulus ∧
       subM 16 9 (ringAt s 0).headC = subM 16 (ringAt s 0).head (ringAt s 0).headC ∧
       ¬ subM 16 10 (ringAt s 0).headC ≤ subM 16 (ringAt s 0).head (ringAt s 0).headC ∧
       ¬ subM 16 0 (ringAt s 0).headC ≤ subM 16 (ringAt s 0).head (ringAt s 0).headC) ∧
    (Cfg.ref.ring 0).clocking ≠ .async := by decide +kernel

/-- GrayTestsAgreeWithCounts: full and empty, in a one-bit cursor and in a four-bit cursor across the wrap. -/
theorem witness_gray :
    grayFull 0 1 0 = true ∧ grayFull 0 0 0 = false ∧ grayFull 3 4 12 = true ∧ grayFull 3 4 13 = false ∧
      grayEmpty 15 15 = true ∧ grayEmpty 0 15 = false ∧ 15 < (Cfg.ref.ring 0).modulus := by decide +kernel

/-- PortIdOutOfRangeIsRefused: one below and one above the range of REF. -/
theorem witness_port_range : Ready State.reset ∧ State.reset.port = .host ∧
    (¬ (Cfg.ref.portBase.toNat ≤ (0x0F#8).toNat ∧ (0x0F#8).toNat < Cfg.ref.portBase.toNat + Cfg.ref.portCount)) ∧
    ¬ (Cfg.ref.portBase.toNat ≤ (0x14#8).toNat ∧ (0x14#8).toNat < Cfg.ref.portBase.toNat + Cfg.ref.portCount) := by
  decide +kernel

/-- The SVC statements: the first and the last port of a range, registered and not, pending and not, lengths and byte
indexes at their limits. -/
theorem witness_svc :
    (let s := pending.withPort .host
     Ready s ∧ s.port = .host ∧ 1 < s.cfg.portCount ∧ (0x11#8).toNat = s.cfg.portBase.toNat + 1 ∧
       (svcAt s 1).reg = true ∧ (svcAt s 1).pending = true ∧ (svcAt s 1).plen.toNat ≤ (2#8).toNat ∧
       ¬ (svcAt s 1).plen.toNat ≤ (1#8).toNat ∧ (0x13#8).toNat = s.cfg.portBase.toNat + 3 ∧ 3 < s.cfg.portCount ∧
       (svcAt s 3).reg = false ∧ (svcAt s 3).pending = false ∧ s.cfg.maxLen.toNat - 1 < (8#8).toNat ∧
       ¬ s.cfg.maxLen.toNat - 1 < (7#8).toNat) ∧
    (let s := State.resetOf largeCfg
     Ready s ∧ s.port = .host ∧ 15 < s.cfg.portCount ∧ (0xFF#8).toNat = s.cfg.portBase.toNat + 15) := by decide +kernel

/-- SvcNextScansInPortOrder: a pending port ahead of the scan, and only one behind it. -/
theorem witness_svcNext :
    (let s := pending.withPort .host
     Ready s ∧ s.port = .host ∧ s.ssp.toNat ≤ 1 ∧ (svcAt s 1).pending = true) ∧
    (let s := run [host 0x24000000#32] pending
     Ready s ∧ s.port = .host ∧ s.ssp.toNat = 2 ∧
       ∀ i < s.cfg.portCount, s.ssp.toNat ≤ i → (svcAt s i).pending = false) := by decide +kernel

/-- PendingPortIsGuarded (with inv_pending): a frame for the busy port, SVC_DONE of it, and SVC_DONE over the bus. -/
theorem witness_guard : 1 < pending.cfg.portCount ∧ (svcAt pending 1).pending = true ∧
    stepsOn (tp 0x100000A5#32) pending = true ∧ stepsOn (host 0x26110042#32) pending = true ∧
    stepsOn (.busWrite 0 4 0x26110042#32) pending = true := by decide +kernel

/-- The FV_RX statements: each parser state is entered, with the bytes that meet each branch. -/
theorem witness_fvRx :
    (let s := served.withPort .transport
     Ready s ∧ s.port = .transport ∧ s.fv.st = .header ∧ s.cfg.svcHeader = 0xA5#8 ∧ s.cfg.statusHeader = 0xA6#8 ∧
       s.cfg.isPortId 0x10#8 = true ∧ (svcAt s 0).reg = true ∧ s.cfg.isPortId 0x13#8 = true ∧ (svcAt s 3).reg = false) ∧
    (let s := run (rx [0xA6]) served
     Ready s ∧ s.port = .transport ∧ s.fv.st = .statusQuery) ∧
    (let s := run (rx [0x11]) served
     Ready s ∧ s.port = .transport ∧ s.fv.st = .portQuery ∧ s.fv.qport = 1#4) ∧
    (let s := run (rx [0xA5]) served
     Ready s ∧ s.port = .transport ∧ s.fv.st = .length ∧ s.cfg.maxLen = 8#8) ∧
    (let s := run (rx [0xA5, 0x01]) served
     Ready s ∧ s.port = .transport ∧ s.fv.st = .port ∧ s.fv.len = 1#8 ∧ (svcAt s 0).plen = s.fv.len - 1#8 ∧
       (svcAt s 1).plen ≠ s.fv.len - 1#8) ∧
    (let s := run (rx [0xA5, 0x03, 0x11]) served
     Ready s ∧ s.port = .transport ∧ s.fv.st = .data ∧ s.fv.cnt + 1#8 ≠ s.fv.len - 1#8) ∧
    (let s := run (rx [0xA5, 0x03, 0x11, 0xAA]) served
     Ready s ∧ s.port = .transport ∧ s.fv.st = .data ∧ s.fv.cnt + 1#8 = s.fv.len - 1#8) := by
  refine ⟨?_, ?_, ?_, ?_, ?_, ?_, ?_⟩ <;> decide +kernel

/-- RxInChecksum: a good frame for a free port, for a deleted one, for one registered anew, for a busy one. -/
theorem witness_checksum :
    (let s := run (rx [0xA5, 0x03, 0x11, 0xAA, 0xBB]) served
     Ready s ∧ s.port = .transport ∧ s.fv.st = .checksum ∧ s.fv.pidx.toNat < s.cfg.portCount ∧ s.fv.crc = 0x7D#8 ∧
       (svcAt s 1).reg = true ∧ (svcAt s 1).plen = s.fv.len - 1#8 ∧ (svcAt s 1).pending = false) ∧
    (let s := (run (rx [0xA5, 0x03, 0x11, 0xAA, 0xBB] ++ [host 0x21110000#32]) served).withPort .transport
     Ready s ∧ s.fv.st = .checksum ∧ (svcAt s 1).reg = false) ∧
    (let s := (run (rx [0xA5, 0x03, 0x11, 0xAA, 0xBB] ++ [host 0x21110000#32, host 0x20110003#32]) served).withPort .transport
     Ready s ∧ s.fv.st = .checksum ∧ (svcAt s 1).reg = true ∧ (svcAt s 1).plen ≠ s.fv.len - 1#8) ∧
    (let s := run (rx [0xA5, 0x03, 0x11, 0xAA, 0xBB]) pending
     Ready s ∧ s.port = .transport ∧ s.fv.st = .checksum ∧ (svcAt s 1).pending = true) := by decide +kernel

/-- OnlyTransferLeavesBadFrame, FvTxSendsTheAnswer, FvXferEndsTheFrame: BAD_FRAME, left by FV_XFER. -/
theorem witness_badFrame :
    (let s := run (rx [0x00]) served
     Ready s ∧ s.port = .transport ∧ s.fv.st = .badFrame ∧
       (nextOf (step (s.withInbox [tp 0x12000000#32]))).map (·.fv.st) = some .header ∧
       (nextOf (step (s.withInbox [.busWrite 8 4 0x12000000#32]))).map (·.fv.st) = some .header) := by decide +kernel

/-- CrcDetectsOneChangedByte: an accepted frame and another byte. -/
theorem witness_crc : (0xAA#8 ≠ 0xAB#8) ∧ crc8 ([0xA5, 0x03, 0x11] ++ 0xAA#8 :: [0xBB, 0x7D]) = 0#8 := by decide +kernel

/-- GoodFrameIsAccepted: no data bytes, and as many as a frame can carry. -/
theorem witness_frame :
    (let s := served.withPort .transport
     Ready s ∧ s.port = .transport ∧ s.fv.st = .header ∧ 0 < s.cfg.portCount ∧ (0x10#8).toNat = s.cfg.portBase.toNat + 0 ∧
       (svcAt s 0).reg = true ∧ (svcAt s 0).pending = false ∧ (svcAt s 0).plen.toNat = ([] : List Byte).length) ∧
    (let s := (run [host 0x20130007#32] State.reset).withPort .transport
     Ready s ∧ s.port = .transport ∧ s.fv.st = .header ∧ 3 < s.cfg.portCount ∧ (0x13#8).toNat = s.cfg.portBase.toNat + 3 ∧
       (svcAt s 3).reg = true ∧ (svcAt s 3).pending = false ∧
       (svcAt s 3).plen.toNat = [1#8, 2#8, 3#8, 4#8, 5#8, 6#8, 7#8].length ∧ 7 + 1 ≤ s.cfg.maxLen.toNat) := by decide +kernel

/-- The SCH statements: nothing in flight and something in flight, a full table, free slots, due slots and none, the
first and the last handle. -/
theorem witness_sch :
    (Ready State.reset ∧ State.reset.port = .host ∧ State.reset.cfg.hasSched = true ∧ State.reset.sch.inflight = false ∧
      (slotAt State.reset 0).occ = false ∧
      ∀ j < State.reset.cfg.nslots, State.reset.sch.sp.toNat ≤ j →
        ¬ ((slotAt State.reset j).occ = true ∧ 0 < (slotAt State.reset j).run.toNat)) ∧
    (Ready tasks ∧ tasks.port = .host ∧ tasks.cfg.hasSched = true ∧ tasks.sch.inflight = false ∧
      (∀ j < tasks.cfg.nslots, (slotAt tasks j).occ = true) ∧ 0 < (slotAt tasks 0).run.toNat ∧
      ¬ tasks.cfg.nslots ≤ (3#8).toNat ∧ tasks.cfg.nslots ≤ (4#8).toNat) ∧
    (Ready inFlight ∧ inFlight.port = .host ∧ inFlight.cfg.hasSched = true ∧ inFlight.sch.inflight = true ∧
      inFlight.sch.ifslot.toNat = (0#8).toNat ∧ (slotAt inFlight 0).period = 0#12 ∧
      inFlight.sch.ifslot.toNat ≠ (1#8).toNat) ∧
    (let s := run [host 0x33000000#32, host 0x32000000#32] inFlight
     Ready s ∧ s.sch.inflight = true ∧ s.sch.ifslot.toNat = (1#8).toNat ∧ (slotAt s 1).period ≠ 0#12) := by
  refine ⟨?_, ?_, ?_, ?_⟩ <;> decide +kernel

/-- TickCountsEverySlot: empty, waiting and counting slots, and a saturated run-count. -/
theorem witness_tick :
    (let s := tasksExt.withInbox [.tick]
     Ready s ∧ s.cfg.hasSched = true ∧ s.cfg.hasTimer = false ∧ s.inbox = .tick :: [] ∧ (slotAt s 0).delay = 0#12 ∧ (slotAt s 0).period = 0#12 ∧
       (slotAt s 1).delay = 0#12 ∧ (slotAt s 1).period ≠ 0#12 ∧ (slotAt s 2).delay ≠ 0#12) ∧
    (slotAt State.reset 0).occ = false ∧ (tickSlot ⟨true, 0#12, 1#12, 255#8⟩).run = 255#8 := by decide +kernel

/-- TmrClkStep, TimerTicksOncePerPeriod: no timer, stopped, counting, expiring; and a TICK input with a timer and without
a scheduler. -/
theorem witness_timer :
    (let s := (State.resetOf bareCfg).withInbox [.tmrClk]
     Ready s ∧ s.inbox = .tmrClk :: [] ∧ s.cfg.hasTimer = false) ∧
    (let s := State.reset.withInbox [.tmrClk]
     Ready s ∧ s.inbox = .tmrClk :: [] ∧ s.cfg.hasTimer = true ∧ s.tmr.en = false) ∧
    (let s := ticking.withInbox [.tmrClk]
     Ready s ∧ s.inbox = .tmrClk :: [] ∧ s.tmr.en = true ∧ s.tmr.count ≠ 0#16 ∧ 2 ≤ s.tmr.count.toNat) ∧
    (let s := (run [.tmrClk, .tmrClk] ticking).withInbox [.tmrClk]
     Ready s ∧ s.inbox = .tmrClk :: [] ∧ s.tmr.en = true ∧ s.tmr.count = 0#16 ∧ (slotAt s 0).occ = true ∧
       (slotAt s 0).delay = 0#12 ∧ (slotAt s 1).occ = false) ∧
    (let s := ticking.withInbox [.tick]
     Ready s ∧ s.inbox = .tick :: [] ∧ s.cfg.hasTimer = true) ∧
    (let s := (State.resetOf bareCfg).withInbox [.tick]
     Ready s ∧ s.inbox = .tick :: [] ∧ s.cfg.hasSched = false) := by
  refine ⟨?_, ?_, ?_, ?_, ?_, ?_⟩ <;> decide +kernel

/-- CsrReadAnswersTheMap, CsrFieldsAreInPlace, CsrWriteSetsTheTimer: with and without units, the last ring of the map
and the number after it, a write that starts the timer and one that does not. -/
theorem witness_csr :
    (Ready State.reset ∧ State.reset.port = .host ∧ State.reset.cfg.hasTimer = true ∧ State.reset.tmr.en = false ∧
      (1#16).getLsbD 0 = true ∧ 0 < State.reset.cfg.rbCount) ∧
    (Ready ticking ∧ ticking.port = .host ∧ ticking.tmr.en = true) ∧
    (let s := State.resetOf bareCfg
     Ready s ∧ s.port = .host ∧ s.cfg.hasTimer = false ∧ csrValue s 0x30 = none ∧ csrValue s 0x11 = none) ∧
    (let s := State.resetOf largeCfg
     Ready s ∧ s.port = .host ∧ 15 < s.cfg.rbCount ∧ csrValue s 0x1F = some 0x003F#16 ∧ csrValue s 0x2F = some 0x0001#16 ∧
       csrValue s 0x0F = none) := by decide +kernel

/-- ResetSetsEveryField, IllegalConfigurationIsRefused: RESET in a busy block. OutputsAfterReset: each output in a state
where it is 1 and in one where it is 0. -/
theorem witness_reset :
    (let s := pending.withInbox [.reset]
     s.cfg.wf = true ∧ s.inbox = .reset :: []) ∧ Cfg.wf { Cfg.ref with maxLen := 0#8 } = false ∧
    (Ready pending ∧ svcPendOut pending = true ∧ taskDueOut pending = false) ∧
    (Ready tasks ∧ taskDueOut tasks = true ∧ svcPendOut tasks = false) ∧
    (Ready full ∧ 0 < full.cfg.rbCount ∧ rbNotEmptyOut full 0 = true ∧ rbNotFullOut full 0 = false) ∧
    (Ready State.reset ∧ rbNotEmptyOut State.reset 0 = false ∧ rbNotFullOut State.reset 0 = true) ∧
    (Ready (State.resetOf bareCfg) ∧ taskDueOut (State.resetOf bareCfg) = false) := by
  refine ⟨?_, ?_, ?_, ?_, ?_, ?_, ?_⟩ <;> decide +kernel

/-- MisalignedAccessDoesNothing, BusWindowsReachThePorts: the first and the last byte of the windows, and every port. -/
theorem witness_bus :
    Cfg.ref.wf = true ∧ Cfg.ref.blockBase ≤ 0 ∧ 31 < Cfg.ref.blockBase + 8 * Cfg.ref.cmdPorts ∧ (1 ≠ 4 ∨ 0 % 4 ≠ 0) ∧
      (4 ≠ 4 ∨ 31 % 4 ≠ 0) ∧
      (State.reset.withInbox [.busWrite 0 1 0#32]).inbox = .busWrite 0 1 0#32 :: [] ∧
      (State.reset.withInbox [.busRead 31 4]).inbox = .busRead 31 4 :: [] ∧
      portExists Cfg.ref (.consumer 0) = true ∧ portExists largeCfg (.consumer 15) = true := by decide +kernel

end Sys2Proof.Tests
end

/-! ## Configurations, the gray-coded cursors, the timer and the RESULT registers

Settled here: O48, O15, O44 and O60. The laws of the operations come first in each part, the theorem that settles the
statement last. -/

namespace Sys2Proof.Machine

/-! ### Legal configurations (R7, R76): what each check of `Cfg.wf` says -/

section Configurations

variable {c : Cfg}

theorem ringsOk_iff : c.ringsOk = true ↔ 1 ≤ c.rbCount ∧ c.rbCount ≤ 16 ∧ ∀ r ∈ c.rings, r.aw ≤ 15 := by
  simp [Cfg.ringsOk, and_assoc]

theorem slotsOk_iff : c.slotsOk = true ↔ (c.hasSched = true → 1 ≤ c.nslots ∧ c.nslots ≤ 16) := by
  cases h : c.hasSched <;> simp [Cfg.slotsOk, h]

theorem timerOk_iff : c.timerOk = true ↔ (c.hasTimer = true → c.hasSched = true) := by
  cases h : c.hasTimer <;> simp [Cfg.timerOk, h]

theorem portsOk_iff :
    c.portsOk = true ↔ 1 ≤ c.portCount ∧ c.portCount ≤ 16 ∧ c.portBase.toNat + c.portCount ≤ 256 := by
  simp [Cfg.portsOk, and_assoc]

theorem maxLenOk_iff : c.maxLenOk = true ↔ 1 ≤ c.maxLen.toNat := decide_eq_true_iff

theorem isPortId_eq_false_iff {b : Byte} :
    c.isPortId b = false ↔ ¬ (c.portBase.toNat ≤ b.toNat ∧ b.toNat < c.portBase.toNat + c.portCount) := by
  rw [← Bool.not_eq_true, Cfg.isPortId, Bool.and_eq_true, decide_eq_true_iff, decide_eq_true_iff]

theorem headersOk_iff :
    c.headersOk = true ↔
      c.svcHeader ≠ c.statusHeader ∧ ∀ h, h = c.svcHeader ∨ h = c.statusHeader →
        ¬ (c.portBase.toNat ≤ h.toNat ∧ h.toNat < c.portBase.toNat + c.portCount) := by
  simp only [Cfg.headersOk, Bool.and_eq_true, decide_eq_true_iff, Bool.not_eq_true', isPortId_eq_false_iff,
    forall_eq_or_imp, forall_eq, and_assoc]

theorem codesOk_iff : c.codesOk = true ↔ c.ws.toList.Nodup := decide_eq_true_iff

theorem baseOk_iff : c.baseOk = true ↔ c.blockBase % 8 = 0 := decide_eq_true_iff

theorem cfg_wf_iff :
    c.wf = true ↔
      c.ringsOk = true ∧ c.slotsOk = true ∧ c.timerOk = true ∧ c.portsOk = true ∧ c.maxLenOk = true ∧
        c.headersOk = true ∧ c.codesOk = true ∧ c.baseOk = true := by
  simp only [Cfg.wf, Bool.and_eq_true, and_assoc]

end Configurations

theorem step_of_not_wf {s : State} (h : s.cfg.wf = false) : step s = .refused .refusedConfiguration := by
  simp [step, h]

/-- Settles O48: `cfg_wf_iff` splits the check into its eight parts, each of which says one constraint of R7 or R76. -/
theorem illegalConfigurationIsRefused : Obligations.IllegalConfigurationIsRefused := by
  intro s
  refine ⟨step_of_not_wf, ?_⟩
  rw [cfg_wf_iff, ringsOk_iff, slotsOk_iff, timerOk_iff, portsOk_iff, maxLenOk_iff, headersOk_iff, codesOk_iff,
    baseOk_iff]

/-! ### Gray codes (R137)

The gray code is linear for XOR and injective, and the bits the full test inverts are the gray code of `2^AW`. So both
tests compare cursors: `a = b` for empty, `a = b XOR 2^AW` for full; and XOR with the top bit `2^AW` of a cursor is
addition of `CAP` modulo `M`. -/

section Gray

theorem gray_xor (a b : Nat) : gray (a ^^^ b) = gray a ^^^ gray b := by
  simp only [gray, Nat.shiftRight_xor_distrib]
  ac_rfl

theorem gray_eq_zero_iff {n : Nat} : gray n = 0 ↔ n = 0 := by
  rw [gray, Nat.xor_eq_zero_iff, Nat.shiftRight_one]
  omega

theorem gray_injective : Function.Injective gray := by
  intro a b h
  rwa [← Nat.xor_eq_zero_iff, ← gray_xor, gray_eq_zero_iff, Nat.xor_eq_zero_iff] at h

theorem xor_two_pow_of_lt {n b : Nat} (h : b < 2 ^ n) : b ^^^ 2 ^ n = b + 2 ^ n := by
  rw [Nat.add_comm, ← Nat.mul_one (2 ^ n), Nat.two_pow_add_eq_or_of_lt h]
  refine Nat.eq_of_testBit_eq fun i => ?_
  by_cases hi : n = i
  · simp [← hi, Nat.testBit_lt_two_pow h]
  · simp [Nat.testBit_two_pow_of_ne hi]

theorem xor_two_pow_of_le {n b : Nat} (hb : b < 2 ^ (n + 1)) (h : 2 ^ n ≤ b) : b ^^^ 2 ^ n = b - 2 ^ n := by
  have low : (b - 2 ^ n) ^^^ 2 ^ n = b := by
    rw [xor_two_pow_of_lt (by omega), Nat.sub_add_cancel h]
  calc b ^^^ 2 ^ n = ((b - 2 ^ n) ^^^ 2 ^ n) ^^^ 2 ^ n := by rw [low]
    _ = b - 2 ^ n := Nat.xor_xor_cancel_right ..

theorem grayTopBits_eq (aw : Nat) : grayTopBits aw = if aw = 0 then 1 else 2 ^ aw + 2 ^ (aw - 1) := by
  cases aw with
  | zero => rfl
  | succ n => simp [grayTopBits, Nat.shiftLeft_eq, Nat.pow_succ]; omega

theorem gray_two_pow (aw : Nat) : gray (2 ^ aw) = grayTopBits aw := by
  cases aw with
  | zero => rfl
  | succ n =>
    have half : 2 ^ (n + 1) >>> 1 = 2 ^ n := by rw [Nat.shiftRight_one, Nat.pow_succ, Nat.mul_div_cancel _ two_pos]
    rw [gray, half, Nat.xor_comm, xor_two_pow_of_lt (Nat.pow_lt_pow_succ one_lt_two), grayTopBits_eq,
      if_neg n.succ_ne_zero, Nat.add_comm, Nat.add_sub_cancel]

theorem grayEmpty_iff {a b : Nat} : grayEmpty a b = true ↔ a = b := by
  rw [grayEmpty, beq_iff_eq, gray_injective.eq_iff]

theorem grayFull_iff {aw a b : Nat} : grayFull aw a b = true ↔ a = b ^^^ 2 ^ aw := by
  rw [grayFull, beq_iff_eq, ← gray_two_pow, ← gray_xor, gray_injective.eq_iff]

variable {c : RingCfg} {a b : Nat}

theorem subM_eq_zero_iff (ha : a < c.modulus) (hb : b < c.modulus) : subM c.modulus a b = 0 ↔ a = b := by
  rw [subM_of_lt ha hb]
  split <;> omega

theorem subM_eq_cap_iff (ha : a < c.modulus) (hb : b < c.modulus) :
    subM c.modulus a b = c.cap ↔ a = b ^^^ 2 ^ c.aw := by
  rw [subM_of_lt ha hb]
  have hm := modulus_eq c
  rcases Nat.lt_or_ge b c.cap with h | h
  · rw [xor_two_pow_of_lt h, ← RingCfg.cap]
    split <;> omega
  · rw [xor_two_pow_of_le hb h, ← RingCfg.cap]
    split <;> omega

/-- `-_M` is the remainder of the difference (R11). -/
theorem subM_eq_emod {m : Nat} (hb : b < m) : ((subM m a b : Nat) : Int) = ((a : Int) - b) % m := by
  have shift : ((a + (m - b) : Nat) : Int) = (a : Int) - b + m := by omega
  rw [subM, Nat.mod_eq_of_lt hb, Int.natCast_mod, shift, Int.add_emod_right]

/-- Settles O15: on both sides of each equivalence stands the same comparison of cursors. -/
theorem grayTestsAgreeWithCounts : Obligations.GrayTestsAgreeWithCounts := by
  intro c a b ha hb g
  refine ⟨⟨rfl, rfl, subM_eq_emod hb⟩, ⟨?_, beq_iff_eq⟩, ?_, ?_⟩
  · rw [← grayTopBits_eq]
    exact beq_iff_eq
  · rw [grayFull_iff, subM_eq_cap_iff ha hb]
  · rw [grayEmpty_iff, subM_eq_zero_iff ha hb]

end Gray

/-! ### TMR_CLK (R160) -/

section Timer

variable {s : State}

theorem timerClock_of_stopped (h : s.tmr.en = false) : timerClock s = s := by
  simp [timerClock, h]

theorem timerClock_of_expired (h : s.tmr.en = true) (hc : s.tmr.count = 0#16) :
    timerClock s = tickAll (s.withTmr { s.tmr with count := s.tmr.reload }) := by
  simp [timerClock, h, hc]

theorem timerClock_of_counting (h : s.tmr.en = true) (hc : s.tmr.count ≠ 0#16) :
    timerClock s = s.withTmr { s.tmr with count := s.tmr.count - 1#16 } := by
  simp [timerClock, h, hc]

@[simp] theorem ifEnabled_true (x : Input) (t : State) : ifEnabled true x t = .next t := rfl

@[simp] theorem ifEnabled_false (x : Input) (t : State) : ifEnabled false x t = .refused (.eventNotEnabled x) := rfl

theorem tickInputExists_eq_false_iff {c : Cfg} :
    tickInputExists c = false ↔ c.hasTimer = true ∨ c.hasSched = false := by
  simp only [tickInputExists, Bool.and_eq_false_iff, Bool.not_eq_false', or_comm]

/-- Settles O44, by the cases of R160; an expiry is `tickAll`, which ticks every slot (`slotsTicked_tickAll`). -/
theorem tmrClkStep : Obligations.TmrClkStep := by
  intro s rest ⟨hw, _, _⟩
  refine ⟨fun hi => ?_, fun hi habsent => ?_⟩
  · intro s1
    have hstep : step s = ifEnabled s.cfg.hasTimer .tmrClk (timerClock s1) := step_of_inbox hw hi
    split
    next hno => rw [hstep, hno, ifEnabled_false]
    next htimer =>
      rw [Bool.not_eq_false] at htimer
      rw [htimer, ifEnabled_true] at hstep
      split
      next hstopped => exact hstep.trans (congrArg _ (timerClock_of_stopped hstopped))
      next hen =>
        rw [Bool.not_eq_false] at hen
        split
        next hzero =>
          exact ⟨_, hstep.trans (congrArg _ (timerClock_of_expired hen hzero)), rfl, slotsTicked_tickAll _⟩
        next hcount => exact hstep.trans (congrArg _ (timerClock_of_counting hen hcount))
  · have hstep : step s = ifEnabled (tickInputExists s.cfg) .tick _ := step_of_inbox hw hi
    rw [hstep, tickInputExists_eq_false_iff.2 habsent, ifEnabled_false]

end Timer

/-! ### Command words and bus accesses: what one that answers a next state did (R74, R76, R106) -/

section Inputs

variable {s t : State}

theorem issue_next {p : Port} {w : Word} (h : issue p w s = .next t) :
    portExists s.cfg p = true ∧
      ((∃ i, decode w = .ok i ∧ exec i (s.withPort p) = .next t) ∨ t = fail .illegal (s.withPort p)) := by
  unfold issue at h
  split at h
  next hp =>
    cases hd : decode w with
    | ok i =>
      rw [hd] at h
      exact ⟨hp, .inl ⟨i, rfl, h⟩⟩
    | error e =>
      rw [hd] at h
      cases h
      exact ⟨hp, .inr rfl⟩
  next => cases h

theorem busWrite_next {addr size : Nat} {data : Word} (h : busWrite addr size data s = .next t) :
    (∃ r, t = s.withBus r) ∨ issue (windowPort s.cfg addr) data (s.withBus .done) = .next t := by
  unfold busWrite at h
  split at h
  next => cases h
  next =>
    split at h
    next =>
      cases h
      exact .inl ⟨_, rfl⟩
    next =>
      split at h
      next => exact .inr h
      next =>
        cases h
        exact .inl ⟨_, rfl⟩

theorem busRead_next {addr size : Nat} (h : busRead addr size s = .next t) : ∃ r, t = s.withBus r := by
  unfold busRead at h
  split at h
  next => cases h
  next =>
    split at h
    next =>
      cases h
      exact ⟨_, rfl⟩
    next =>
      split at h <;> cases h <;> exact ⟨_, rfl⟩

end Inputs

/-! ### RESULT registers (R12, R30, R108)

A command writes one result word to the RESULT register of its port; an event writes none, except that RESET writes 0 to
all of them. -/

section Results

/-- `t` has the RESULT registers of `s` but for port `p`'s, which holds an answer: DATA is 0 unless the code is
RC_OK (R108). -/
def WritesResult (p : Port) (s t : State) : Prop :=
  ∃ rc data, (rc ≠ .ok → data = 0#16) ∧ t.result = s.result.set (portNumber p) (resultWord rc data)

variable {s t u : State} {p : Port}

/-- Answering RC_OK after changes that leave port and RESULT registers alone. -/
theorem WritesResult.ok {data : Half} (hr : u.result = s.result) (hp : u.port = s.port) :
    WritesResult s.port s (respond .ok data u) :=
  ⟨.ok, data, fun h => absurd rfl h, by rw [← hr, ← hp]; rfl⟩

/-- An error answer after changes that leave port and RESULT registers alone. -/
theorem WritesResult.fail {rc : ResultCode} (hr : u.result = s.result) (hp : u.port = s.port) :
    WritesResult s.port s (fail rc u) :=
  ⟨rc, 0#16, fun _ => rfl, by rw [← hr, ← hp]; rfl⟩

theorem WritesResult.ite {b : Prop} [Decidable b] (ht : WritesResult p s t) (hu : WritesResult p s u) :
    WritesResult p s (if b then t else u) := by
  split
  · exact ht
  · exact hu

theorem WritesResult.ifLegal {b : Bool} (ht : WritesResult s.port s t) (h : ifLegal b s t = .next u) :
    WritesResult s.port s u := by
  obtain ⟨-, rfl⟩ | ⟨-, rfl⟩ := ifLegal_next h
  · exact ht
  · exact WritesResult.fail rfl rfl

theorem WritesResult.withSvcPort {a : Byte} {act : Nat → State} (h : ∀ i, WritesResult s.port s (act i)) :
    WritesResult s.port s (withSvcPort a s act) := by
  obtain ⟨-, e⟩ | ⟨i, -, -, e⟩ := withSvcPort_cases a s act
  · exact e ▸ WritesResult.fail rfl rfl
  · exact e ▸ h i

theorem fvReceive_result (b : Byte) (s : State) : (fvReceive b s).result = s.result := by
  obtain ⟨svc, fv, e⟩ := fvReceive_eq b s
  rw [e, withFv_result, withSvc_result]

theorem fvReceive_port (b : Byte) (s : State) : (fvReceive b s).port = s.port := by
  obtain ⟨svc, fv, e⟩ := fvReceive_eq b s
  rw [e, withFv_port, withSvc_port]

theorem fvTransfer_result (s : State) : (fvTransfer s).result = s.result := by
  obtain ⟨fv, e⟩ := fvTransfer_eq s
  rw [e, withFv_result]

theorem fvTransfer_port (s : State) : (fvTransfer s).port = s.port := by
  obtain ⟨fv, e⟩ := fvTransfer_eq s
  rw [e, withFv_port]

theorem finish_result (h : Nat) (s : State) : (finish h s).result = s.result := by
  unfold finish
  dsimp only
  split <;> rfl

theorem finish_port (h : Nat) (s : State) : (finish h s).port = s.port := by
  unfold finish
  dsimp only
  split <;> rfl

/-- Every command, legal or not, answers on the issuing port and writes no other RESULT register (R12, R105). -/
theorem writesResult_exec {i : Instr} (h : exec i s = .next t) : WritesResult s.port s t := by
  cases i with refine .ifLegal ?_ h
  | rbPush k d => exact .ite (.fail rfl rfl) (.ok rfl rfl)
  | rbPop k => exact .ite (.fail rfl rfl) (.ok rfl rfl)
  | rbLen k => exact .ok rfl rfl
  | fvRx b => exact .ok (fvReceive_result b s) (fvReceive_port b s)
  | fvTx => exact .ok rfl rfl
  | fvXfer => exact .ok (fvTransfer_result s) (fvTransfer_port s)
  | svcReg a n => exact .withSvcPort fun _ => .ite (.fail rfl rfl) (.ite (.fail rfl rfl) (.ok rfl rfl))
  | svcDel a => exact .withSvcPort fun _ => .ok rfl rfl
  | svcIsreg a => exact .withSvcPort fun _ => .ok rfl rfl
  | svcPlen a => exact .withSvcPort fun _ => .ok rfl rfl
  | svcNext =>
    split
    · exact .fail rfl rfl
    · exact .ok rfl rfl
  | svcRdparam a j => exact .withSvcPort fun _ => .ite (.fail rfl rfl) (.ite (.fail rfl rfl) (.ok rfl rfl))
  | svcDone a v => exact .withSvcPort fun _ => .ite (.fail rfl rfl) (.ok rfl rfl)
  | svcResp a => exact .withSvcPort fun _ => .ok rfl rfl
  | schAdd d p =>
    refine .ite (.fail rfl rfl) ?_
    split
    · exact .fail rfl rfl
    · exact .ok rfl rfl
  | schDel j => exact .ite (.fail rfl rfl) (.ite (.fail rfl rfl) (.ok rfl rfl))
  | schNext =>
    refine .ite (.fail rfl rfl) ?_
    split
    · exact .fail rfl rfl
    · exact .ok rfl rfl
  | schDone j =>
    exact .ite (.fail rfl rfl) (.ite (.fail rfl rfl) (.ok (finish_result _ s) (finish_port _ s)))
  | schRdslot j sel => exact .ite (.fail rfl rfl) (.ok rfl rfl)
  | csrRead n =>
    split
    · exact .fail rfl rfl
    · exact .ok rfl rfl
  | csrWrite n v => exact .ite (.ok rfl rfl) (.ite (.ok rfl rfl) (.fail rfl rfl))

theorem writesResult_issue {w : Word} (h : issue p w s = .next t) : WritesResult p s t := by
  obtain ⟨-, ⟨i, -, hexec⟩ | rfl⟩ := issue_next h
  · exact writesResult_exec (s := s.withPort p) hexec
  · exact WritesResult.fail (s := s.withPort p) rfl rfl

theorem timerClock_result (s : State) : (timerClock s).result = s.result := by
  unfold timerClock
  split
  · split <;> rfl
  · rfl

/-- What an input can do to the RESULT registers. -/
theorem react_result_cases {x : Input} (h : react x s = .next t) :
    t.result = s.result ∨ (∃ p, WritesResult p s t) ∨ t.result = List.replicate s.cfg.cmdPorts 0#32 := by
  cases x with
  | command p w => exact .inr (.inl ⟨p, writesResult_issue h⟩)
  | busWrite addr size data =>
    obtain ⟨r, rfl⟩ | hissue := busWrite_next h
    · exact .inl rfl
    · exact .inr (.inl ⟨_, writesResult_issue (s := s.withBus .done) hissue⟩)
  | busRead addr size =>
    obtain ⟨r, rfl⟩ := busRead_next h
    exact .inl rfl
  | tick => exact .inl ((ifEnabled_next h).2 ▸ rfl)
  | tmrClk => exact .inl ((ifEnabled_next h).2 ▸ timerClock_result s)
  | syncP k v => exact .inl ((ifEnabled_next h).2 ▸ rfl)
  | syncC k v => exact .inl ((ifEnabled_next h).2 ▸ rfl)
  | reset =>
    cases h
    exact .inr (.inr rfl)

theorem rcCode_le (rc : ResultCode) : (rcCode rc).toNat ≤ 0x0C := by
  cases rc <;> decide

/-- An answer is a result word of R108. -/
theorem resultWordOk_resultWord {rc : ResultCode} {data : Half} (h : rc ≠ .ok → data = 0#16) :
    ResultWordOk (resultWord rc data) := by
  rw [ResultWordOk, resultWord_code, resultWord_reserved, resultWord_data]
  exact ⟨rcCode_le rc, rfl, fun hne => h fun e => hne (e ▸ rfl)⟩

theorem resultsOk_iff : ResultsOk s ↔ ∀ w ∈ s.result, ResultWordOk w := by
  simp only [ResultsOk, List.all_eq_true, decide_eq_true_iff]

theorem resultsOk_of_writesResult (h : ResultsOk s) (hw : WritesResult p s t) : ResultsOk t := by
  obtain ⟨rc, data, hdata, hr⟩ := hw
  rw [resultsOk_iff] at h ⊢
  intro w hmem
  rw [hr] at hmem
  obtain hold | rfl := List.mem_or_eq_of_mem_set hmem
  · exact h w hold
  · exact resultWordOk_resultWord hdata

theorem resultsOk_react {x : Input} (h : ResultsOk s) (hreact : react x s = .next t) : ResultsOk t := by
  obtain hsame | ⟨p, hw⟩ | hreset := react_result_cases hreact
  · rwa [ResultsOk, hsame]
  · exact resultsOk_of_writesResult h hw
  · rw [resultsOk_iff, hreset]
    intro w hmem
    rw [List.eq_of_mem_replicate hmem]
    decide

/-- Settles O60: the fields of a result word, and the step lemma, by what an input can do to the RESULT registers. -/
theorem stepKeepsResultWords : Obligations.StepKeepsResultWords := by
  refine ⟨fun rc d => ⟨?_, resultWord_reserved rc d, resultWord_data rc d⟩, fun s t h hstep => ?_⟩
  · rw [resultWord_code]
    cases rc <;> rfl
  · obtain ⟨-, ⟨-, rfl⟩ | ⟨x, rest, -, hreact⟩⟩ := step_next_cases hstep
    · exact h
    · exact resultsOk_react (s := s.withInbox rest) h hreact

end Results

end Sys2Proof.Machine

/-! ## What every step keeps of the rings, the storage, the scheduler and the shape of the state; the level outputs

Settled here: O56, O54, O55, O59 and O50. The first part says once what a step can do (`step_cases`): besides RESET, it
has one effect on one of the four units, and then it may answer. Each invariant is then a short case split over the
effects of its own unit. -/

namespace Sys2Proof.Machine

/-! ### The effects on the units, each with the guard under which its rule has it -/

section Effects

/-- What a push, a pop and the synchronisers do (R131, R132, R134, R135). -/
inductive RingEffect (s : State) : State → Prop
  | push {k : Nat} (d : Half) : k < s.cfg.rbCount → fullP s k = false → RingEffect s (ringPush k d s)
  | pop {k : Nat} : k < s.cfg.rbCount → emptyC s k = false → RingEffect s (ringPop k s)
  | syncP {k v : Nat} : syncPEnabled k v s = true → RingEffect s (syncP k v s)
  | syncC {k v : Nat} : syncCEnabled k v s = true → RingEffect s (syncC k v s)

/-- What the SVC commands do to the service table and its scan position (R181, R182, R186, R189). -/
inductive ServiceEffect (s : State) : State → Prop
  | register {i : Nat} {n : Byte} : i < s.cfg.portCount → (svcAt s i).reg = false →
      n.toNat ≤ s.cfg.maxLen.toNat - 1 →
      ServiceEffect s
        (setSvc i ⟨true, n, false, s.cfg.ws.unknown, List.replicate (s.cfg.maxLen.toNat - 1) 0#8⟩ s)
  | delete {i : Nat} : i < s.cfg.portCount →
      ServiceEffect s (setSvc i { svcAt s i with reg := false, plen := 0#8, pending := false } s)
  | done {i : Nat} (v : Byte) : i < s.cfg.portCount → (svcAt s i).pending = true →
      ServiceEffect s (setSvc i { svcAt s i with resp := v, pending := false } s)
  | passEnd : nextPending s = none → ServiceEffect s (s.withSsp 0#5)
  | next {i : Nat} : nextPending s = some i → ServiceEffect s (s.withSsp (BitVec.ofNat 5 (i + 1)))

/-- What a received byte and a start or stop condition do (R213, R223). -/
inductive ParserEffect (s : State) : State → Prop
  | receive (b : Byte) : ParserEffect s (fvReceive b s)
  | transfer : ParserEffect s (fvTransfer s)

/-- What the SCH commands, the timer's CSR writes, TICK and TMR_CLK do (R151 to R155, R160, R257, R258). -/
inductive SchedulerEffect (s : State) : State → Prop
  | add {j : Nat} (d p : BitVec 12) : s.cfg.hasSched = true → s.sch.inflight = false → freeSlot s = some j →
      SchedulerEffect s (setSlot j (newTask d p) s)
  | delete {j : Nat} : s.cfg.hasSched = true → s.sch.inflight = false → j < s.cfg.nslots →
      SchedulerEffect s (setSlot j Slot.empty s)
  | passEnd : s.cfg.hasSched = true → s.sch.inflight = false → nextDue s = none →
      SchedulerEffect s (s.withSch { s.sch with sp := 0#5 })
  | handOut {j : Nat} : s.cfg.hasSched = true → s.sch.inflight = false → nextDue s = some j →
      SchedulerEffect s (handOut j s)
  | finish {j : Nat} : s.cfg.hasSched = true → j < s.cfg.nslots → s.sch.inflight = true →
      s.sch.ifslot.toNat = j → SchedulerEffect s (finish j s)
  | writeControl (v : Half) : s.cfg.hasTimer = true → SchedulerEffect s (writeTmrctrl v s)
  | writeReload (v : Half) : s.cfg.hasTimer = true → SchedulerEffect s (writeTmrreload v s)
  | tick : s.cfg.hasSched = true → SchedulerEffect s (tickAll s)
  | clock : s.cfg.hasTimer = true → SchedulerEffect s (timerClock s)

/-- What a command or an event other than RESET does to the units, before it answers. -/
inductive Effect (s : State) : State → Prop
  | none : Effect s s
  | ring {u : State} : RingEffect s u → Effect s u
  | service {u : State} : ServiceEffect s u → Effect s u
  | parser {u : State} : ParserEffect s u → Effect s u
  | scheduler {u : State} : SchedulerEffect s u → Effect s u

variable {s t u : State}

/-! What each unit's effects leave alone. -/

theorem RingEffect.frame (h : RingEffect s u) : u = s.withRb u.rb := by
  cases h <;> rfl

theorem ServiceEffect.frame (h : ServiceEffect s u) : u = (s.withSvc u.svc).withSsp u.ssp := by
  cases h <;> rfl

theorem ParserEffect.frame (h : ParserEffect s u) : u = (s.withSvc u.svc).withFv u.fv := by
  cases h with
  | receive b =>
    obtain ⟨svc, fv, e⟩ := fvReceive_eq b s
    rw [e]
    rfl
  | transfer =>
    obtain ⟨fv, e⟩ := fvTransfer_eq s
    rw [e]
    rfl

theorem finish_of_periodic {j : Nat} (h : (slotAt s j).period ≠ 0#12) :
    finish j s = s.withSch { s.sch with inflight := false } := if_neg h

theorem finish_of_oneShot {j : Nat} (h : (slotAt s j).period = 0#12) :
    finish j s =
      setSlot j { slotAt s j with occ := false, delay := 0#12, run := 0#8 }
        (s.withSch { s.sch with inflight := false }) := if_pos h

theorem timerClock_cases (s : State) :
    ∃ tmr, timerClock s = s.withTmr tmr ∨ timerClock s = tickAll (s.withTmr tmr) := by
  cases hen : s.tmr.en with
  | false => exact ⟨s.tmr, .inl (timerClock_of_stopped hen)⟩
  | true =>
    by_cases hzero : s.tmr.count = 0#16
    · exact ⟨_, .inr (timerClock_of_expired hen hzero)⟩
    · exact ⟨_, .inl (timerClock_of_counting hen hzero)⟩

theorem SchedulerEffect.frame (h : SchedulerEffect s u) : u = (s.withSch u.sch).withTmr u.tmr := by
  cases h with
  | @finish j =>
    by_cases hp : (slotAt s j).period = 0#12
    · rw [finish_of_oneShot hp]
      rfl
    · rw [finish_of_periodic hp]
      rfl
  | clock =>
    obtain ⟨tmr, e | e⟩ := timerClock_cases s <;> rw [e] <;> rfl
  | _ => rfl

theorem Effect.cfg (h : Effect s u) : u.cfg = s.cfg := by
  cases h with
  | none => rfl
  | ring h => rw [h.frame, withRb_cfg]
  | service h => rw [h.frame, withSsp_cfg, withSvc_cfg]
  | parser h => rw [h.frame, withFv_cfg, withSvc_cfg]
  | scheduler h => rw [h.frame, withTmr_cfg, withSch_cfg]

/-! Commands (R105, R106). -/

/-- `t` is `s` after one effect and one answer. -/
def Answered (s t : State) : Prop := ∃ u rc data, Effect s u ∧ t = respond rc data u

theorem Answered.of {rc : ResultCode} {data : Half} (h : Effect s u) : Answered s (respond rc data u) :=
  ⟨u, rc, data, h, rfl⟩

theorem Answered.fail {rc : ResultCode} : Answered s (fail rc s) := .of .none

theorem Answered.ite {b : Prop} [Decidable b] (ht : b → Answered s t) (hu : ¬ b → Answered s u) :
    Answered s (if b then t else u) := by
  split
  next hb => exact ht hb
  next hb => exact hu hb

theorem Answered.ifLegal {b : Bool} (ht : b = true → Answered s t) (h : ifLegal b s t = .next u) : Answered s u := by
  obtain ⟨hb, rfl⟩ | ⟨-, rfl⟩ := ifLegal_next h
  · exact ht hb
  · exact .fail

theorem Answered.withSvcPort {a : Byte} {act : Nat → State} (h : ∀ i < s.cfg.portCount, Answered s (act i)) :
    Answered s (withSvcPort a s act) := by
  obtain ⟨-, e⟩ | ⟨i, hi, -, e⟩ := withSvcPort_cases a s act
  · exact e ▸ .fail
  · exact e ▸ h i hi

/-- Every command has at most one effect, on the unit it names, and answers. -/
theorem exec_answered {i : Instr} (h : exec i s = .next t) : Answered s t := by
  cases i with refine .ifLegal (fun hlegal => ?_) h
  | rbPush k d =>
    exact .ite (fun _ => .fail) fun hfull =>
      .of (.ring (.push d (onProducer_eq_true_iff.1 hlegal).1 (Bool.eq_false_of_not_eq_true hfull)))
  | rbPop k =>
    exact .ite (fun _ => .fail) fun hempty =>
      .of (.ring (.pop (onConsumer_eq_true_iff.1 hlegal).1 (Bool.eq_false_of_not_eq_true hempty)))
  | rbLen k => exact .of .none
  | fvRx b => exact .of (.parser (.receive b))
  | fvTx => exact .of .none
  | fvXfer => exact .of (.parser .transfer)
  | svcReg a n =>
    exact .withSvcPort fun i hi => .ite (fun _ => .fail) fun hreg => .ite (fun _ => .fail) fun hlen =>
      .of (.service (.register hi (Bool.eq_false_of_not_eq_true hreg) (Nat.le_of_not_lt hlen)))
  | svcDel a => exact .withSvcPort fun i hi => .of (.service (.delete hi))
  | svcIsreg a => exact .withSvcPort fun _ _ => .of .none
  | svcPlen a => exact .withSvcPort fun _ _ => .of .none
  | svcNext =>
    split
    next hnone => exact .of (.service (.passEnd hnone))
    next i hsome => exact .of (.service (.next hsome))
  | svcRdparam a j =>
    exact .withSvcPort fun _ _ => .ite (fun _ => .fail) fun _ => .ite (fun _ => .fail) fun _ => .of .none
  | svcDone a v =>
    exact .withSvcPort fun i hi => .ite (fun _ => .fail) fun hpending =>
      .of (.service (.done v hi (Bool.eq_true_of_not_eq_false hpending)))
  | svcResp a => exact .withSvcPort fun _ _ => .of .none
  | schAdd d p =>
    have hs := (onHostWithSched_eq_true_iff.1 hlegal).2
    refine .ite (fun _ => .fail) fun hidle => ?_
    split
    next => exact .fail
    next j hfree => exact .of (.scheduler (.add d p hs (Bool.eq_false_of_not_eq_true hidle) hfree))
  | schDel j =>
    have hs := (onHostWithSched_eq_true_iff.1 hlegal).2
    exact .ite (fun _ => .fail) fun hidle => .ite (fun _ => .fail) fun hj =>
      .of (.scheduler (.delete hs (Bool.eq_false_of_not_eq_true hidle) (Nat.lt_of_not_le hj)))
  | schNext =>
    have hs := (onHostWithSched_eq_true_iff.1 hlegal).2
    refine .ite (fun _ => .fail) fun hidle => ?_
    split
    next hnone => exact .of (.scheduler (.passEnd hs (Bool.eq_false_of_not_eq_true hidle) hnone))
    next j hdue => exact .of (.scheduler (.handOut hs (Bool.eq_false_of_not_eq_true hidle) hdue))
  | schDone j =>
    have hs := (onHostWithSched_eq_true_iff.1 hlegal).2
    refine .ite (fun _ => .fail) fun hj => .ite (fun _ => .fail) fun hseq => ?_
    obtain ⟨hflight, hslot⟩ := not_or.1 hseq
    exact .of (.scheduler (.finish hs (Nat.lt_of_not_le hj) (Bool.eq_true_of_not_eq_false hflight) (not_not.1 hslot)))
  | schRdslot j sel => exact .ite (fun _ => .fail) fun _ => .of .none
  | csrRead n =>
    split
    · exact .fail
    · exact .of .none
  | csrWrite n v =>
    exact .ite (fun hctrl => .of (.scheduler (.writeControl v hctrl.2))) fun _ =>
      .ite (fun hreload => .of (.scheduler (.writeReload v hreload.2))) fun _ => .fail

/-! Steps (R72, R106, R109). -/

/-- `s1` is `s` with the input taken: the inbox, the issuing port and the bus answer, fields of the model's own, may
differ, and the issuing port exists. -/
def Taken (s s1 : State) : Prop :=
  ∃ inbox port bus, s1 = ((s.withInbox inbox).withPort port).withBus bus ∧
    (portExists s.cfg s.port = true → portExists s.cfg port = true)

theorem Taken.cfg (h : Taken s u) : u.cfg = s.cfg := by
  obtain ⟨_, _, _, rfl, _⟩ := h
  rfl

theorem Taken.inv (h : Taken s u) (hinv : Inv s) : Inv u := by
  obtain ⟨inbox, port, bus, rfl, hp⟩ := h
  obtain ⟨hw, hshape, hport, hunits⟩ := hinv
  exact ⟨hw, hshape, hp hport, hunits⟩

/-- `t` is reached from `s` by taking an input, one effect and, for a command, one answer. -/
def Reached (s t : State) : Prop := ∃ s1, Taken s s1 ∧ (Effect s1 t ∨ Answered s1 t)

theorem Taken.refl (s : State) : Taken s s := ⟨s.inbox, s.port, s.bus, rfl, id⟩

theorem Reached.effect (h : Effect s t) : Reached s t := ⟨s, .refl s, .inl h⟩

theorem reached_issue {p : Port} {w : Word} (r : BusResp) (h : issue p w (s.withBus r) = .next t) : Reached s t := by
  obtain ⟨hp, hrun⟩ := issue_next h
  refine ⟨(s.withBus r).withPort p, ⟨s.inbox, p, r, rfl, fun _ => hp⟩, .inr ?_⟩
  obtain ⟨i, -, hexec⟩ | rfl := hrun
  · exact exec_answered hexec
  · exact .fail

theorem react_cases {x : Input} (h : react x s = .next t) : t = resetBlock s ∨ Reached s t := by
  have bus (r : BusResp) : Reached s (s.withBus r) := ⟨_, ⟨s.inbox, s.port, r, rfl, id⟩, .inl .none⟩
  cases x with
  | command p w => exact .inr (reached_issue s.bus h)
  | busWrite addr size data =>
    obtain ⟨r, rfl⟩ | hissue := busWrite_next h
    · exact .inr (bus r)
    · exact .inr (reached_issue .done hissue)
  | busRead addr size =>
    obtain ⟨r, rfl⟩ := busRead_next h
    exact .inr (bus r)
  | tick =>
    obtain ⟨hen, rfl⟩ := ifEnabled_next h
    exact .inr (.effect (.scheduler (.tick (Bool.and_eq_true_iff.1 hen).1)))
  | tmrClk =>
    obtain ⟨hen, rfl⟩ := ifEnabled_next h
    exact .inr (.effect (.scheduler (.clock hen)))
  | syncP k v =>
    obtain ⟨hen, rfl⟩ := ifEnabled_next h
    exact .inr (.effect (.ring (.syncP hen)))
  | syncC k v =>
    obtain ⟨hen, rfl⟩ := ifEnabled_next h
    exact .inr (.effect (.ring (.syncC hen)))
  | reset =>
    cases h
    exact .inl rfl

/-- What a step that answers a next state did: RESET, or at most one effect on one unit and at most one answer. -/
theorem step_cases (h : step s = .next t) : (∃ rest, t = resetBlock (s.withInbox rest)) ∨ Reached s t := by
  obtain ⟨-, ⟨-, rfl⟩ | ⟨x, rest, -, hreact⟩⟩ := step_next_cases h
  · exact .inr (.effect .none)
  · obtain rfl | ⟨s1, ⟨inbox, port, bus, rfl, hp⟩, heffect⟩ := react_cases hreact
    · exact .inl ⟨rest, rfl⟩
    · exact .inr ⟨_, ⟨inbox, port, bus, rfl, hp⟩, heffect⟩

/-- Every step keeps the configuration (R44). -/
theorem step_cfg (h : step s = .next t) : t.cfg = s.cfg := by
  obtain ⟨rest, rfl⟩ | ⟨s1, htaken, heffect | ⟨u, rc, data, heffect, rfl⟩⟩ := step_cases h
  · rfl
  · exact heffect.cfg.trans htaken.cfg
  · exact heffect.cfg.trans htaken.cfg

/-- What RESET establishes, every effect establishes from the invariant, and an answer keeps, holds after every step. -/
theorem step_establishes {Q : State → Prop} (hreset : ∀ s, s.cfg.wf = true → Q (resetBlock s))
    (heffect : ∀ {s u}, Inv s → Effect s u → Q u) (hanswer : ∀ {u rc data}, Q u → Q (respond rc data u))
    (hinv : Inv s) (h : step s = .next t) : Q t := by
  obtain ⟨rest, rfl⟩ | ⟨s1, htaken, hs1 | ⟨u, rc, data, hs1, rfl⟩⟩ := step_cases h
  · exact hreset _ hinv.1
  · exact heffect (htaken.inv hinv) hs1
  · exact hanswer (heffect (htaken.inv hinv) hs1)

end Effects

/-! ### Cursor arithmetic (R11, R32) -/

section Cursors

variable {m a b c : Nat}

/-- `-_M` in linear terms: the difference, taken round the end of the cursor range where it would be negative. -/
theorem subM_spec (ha : a < m) (hb : b < m) : subM m a b < m ∧ (subM m a b + b = a ∨ subM m a b + b = a + m) := by
  rw [subM_of_lt ha hb]
  split <;> omega

theorem addM_one_spec (ha : a < m) : addM m a 1 < m ∧ (addM m a 1 = a + 1 ∨ addM m a 1 + m = a + 1) := by
  rw [addM_one_of_lt ha]
  split <;> omega

/-- Distances of cursors add up where `b` lies cyclically between `c` and `a`. -/
theorem subM_add_subM (ha : a < m) (hb : b < m) (hc : c < m) (h : subM m b c ≤ subM m a c) :
    subM m a b + subM m b c = subM m a c := by
  have := subM_spec ha hb
  have := subM_spec hb hc
  have := subM_spec ha hc
  omega

theorem subM_addM_one_left (ha : a < m) (hb : b < m) (h : subM m a b + 1 < m) :
    subM m (addM m a 1) b = subM m a b + 1 := by
  have ha' := addM_one_spec ha
  have := subM_spec ha hb
  have := subM_spec ha'.1 hb
  omega

theorem subM_addM_one_right (ha : a < m) (hb : b < m) (h : subM m a b ≠ 0) :
    subM m a (addM m b 1) + 1 = subM m a b := by
  have hb' := addM_one_spec hb
  have := subM_spec ha hb
  have := subM_spec ha hb'.1
  omega

theorem cap_lt_modulus (c : RingCfg) : c.cap < c.modulus := by
  have := cap_pos c
  have := modulus_eq c
  omega

/-- A storage slot depends on a cursor modulo `CAP` only, and `CAP` divides `M` (R131). -/
theorem mod_modulus_mod_cap (c : RingCfg) (n : Nat) : n % c.modulus % c.cap = n % c.cap :=
  Nat.mod_mod_of_dvd n ⟨2, by rw [modulus_eq, Nat.mul_comm]⟩

theorem addM_one_add_mod_cap (c : RingCfg) (b j : Nat) :
    (addM c.modulus b 1 + j) % c.cap = (b + (j + 1)) % c.cap := by
  rw [Nat.add_mod, addM, mod_modulus_mod_cap, ← Nat.add_mod, Nat.add_assoc, Nat.add_comm 1]

/-- The slot of the head cursor comes right after the elements counted from the tail. -/
theorem add_subM_mod_cap {r : RingCfg} (ha : a < r.modulus) (hb : b < r.modulus) :
    (b + subM r.modulus a b) % r.cap = a % r.cap := by
  have hsum : (b + subM r.modulus a b) % r.modulus = a := by
    obtain ⟨-, h | h⟩ := subM_spec ha hb
    · rw [Nat.add_comm, h, Nat.mod_eq_of_lt ha]
    · rw [Nat.add_comm, h, Nat.add_mod_right, Nat.mod_eq_of_lt ha]
  rw [← mod_modulus_mod_cap, hsum]

end Cursors

/-! ### One ring (R34, R35, R71) -/

section Rings

/-- The invariants of one ring: its cursors, and that its elements have been written. -/
def RingOk (c : RingCfg) (r : Ring) : Prop :=
  CursorsOk c r ∧ ∀ j < subM c.modulus r.head r.tail, (storeGet r.mem ((r.tail + j) % c.cap)).isSome = true

variable {c : RingCfg} {r : Ring} {s u : State} {k : Nat}

theorem ringOk_reset (c : RingCfg) : RingOk c Ring.reset := by
  have hm : 0 < c.modulus := (cap_pos c).trans (cap_lt_modulus c)
  simp [RingOk, CursorsOk, Ring.reset, hm]

theorem storeGet_isSome_storeSet {w : Nat} {m : Store w} {i j : Nat} (v : BitVec w)
    (h : j = i ∨ (storeGet m j).isSome = true) : (storeGet (storeSet m i v) j).isSome = true := by
  by_cases e : j = i
  · rw [e, storeGet_storeSet_self]
    rfl
  · rw [storeGet_storeSet_ne _ _ e]
    exact h.resolve_left e

/-- A push where the producer sees room keeps the ring's invariants: every distance to `head` grows by one (R131). -/
theorem RingOk.push (v : Half) (h : RingOk c r) (hroom : subM c.modulus r.head r.tailP ≠ c.cap) :
    RingOk c { r with
      mem := storeSet r.mem (r.head % c.cap) v
      head := addM c.modulus r.head 1
      headC := if c.clocking = .sync then addM c.modulus r.head 1 else r.headC } := by
  obtain ⟨⟨⟨hh, ht, htp, hhc⟩, hcount, htail, hpcount, hheadc, hsync⟩, hwritten⟩ := h
  have hcap := cap_lt_modulus c
  have hsplit := subM_add_subM hh ht htp htail
  have hcount' := subM_addM_one_left hh ht (by omega)
  have hpcount' := subM_addM_one_left hh htp (by omega)
  have hh' := (addM_one_spec hh).1
  constructor
  · by_cases hclk : c.clocking = .sync
    · simp only [CursorsOk, hclk, if_true]
      exact ⟨⟨hh', ht, htp, hh'⟩, by omega, by omega, by omega, le_rfl, fun _ => ⟨(hsync hclk).1, trivial⟩⟩
    · simp only [CursorsOk, if_neg hclk]
      exact ⟨⟨hh', ht, htp, hhc⟩, by omega, by omega, by omega, by omega, fun e => absurd e hclk⟩
  · intro j hj
    refine storeGet_isSome_storeSet v ?_
    dsimp only at hj ⊢
    rw [hcount'] at hj
    rcases Nat.lt_succ_iff_lt_or_eq.1 hj with hold | rfl
    · exact .inr (hwritten j hold)
    · exact .inl (add_subM_mod_cap hh ht)

/-- A pop where the consumer sees an element keeps the ring's invariants: every distance from `tail` shrinks by one
(R132). -/
theorem RingOk.pop (h : RingOk c r) (hsome : subM c.modulus r.headC r.tail ≠ 0) :
    RingOk c { r with
      tail := addM c.modulus r.tail 1
      tailP := if c.clocking = .sync then addM c.modulus r.tail 1 else r.tailP } := by
  obtain ⟨⟨⟨hh, ht, htp, hhc⟩, hcount, htail, hpcount, hheadc, hsync⟩, hwritten⟩ := h
  have hcap := cap_lt_modulus c
  have hsplit := subM_add_subM hh ht htp htail
  have hcount' := subM_addM_one_right hh ht (by omega)
  have hccount' := subM_addM_one_right hhc ht hsome
  have ht' := (addM_one_spec ht).1
  constructor
  · by_cases hclk : c.clocking = .sync
    · simp only [CursorsOk, hclk, if_true]
      have hself := subM_self ht'
      exact ⟨⟨hh, ht', ht', hhc⟩, by omega, by omega, by omega, by omega, fun _ => ⟨trivial, (hsync hclk).2⟩⟩
    · simp only [CursorsOk, if_neg hclk]
      have htail' := subM_addM_one_left ht htp (by omega)
      exact ⟨⟨hh, ht', htp, hhc⟩, by omega, by omega, hpcount, by omega, fun e => absurd e hclk⟩
  · intro j hj
    dsimp only at hj ⊢
    rw [addM_one_add_mod_cap]
    exact hwritten (j + 1) (by omega)

/-- A value between `tail_p` and `tail` is a sound copy of `tail` (R134). -/
theorem RingOk.syncP {v : Nat} (h : RingOk c r) (hclk : c.clocking = .async) (hv : v < c.modulus)
    (hbetween : subM c.modulus v r.tailP ≤ subM c.modulus r.tail r.tailP) : RingOk c { r with tailP := v } := by
  obtain ⟨⟨⟨hh, ht, htp, hhc⟩, hcount, htail, hpcount, hheadc, -⟩, hwritten⟩ := h
  have hhv := subM_add_subM hh hv htp (hbetween.trans htail)
  have htv := subM_add_subM ht hv htp hbetween
  refine ⟨⟨⟨hh, ht, hv, hhc⟩, hcount, ?_, ?_, hheadc, fun e => ?_⟩, hwritten⟩
  · dsimp only
    omega
  · dsimp only
    omega
  · rw [hclk] at e
    cases e

/-- A value between `head_c` and `head` is a sound copy of `head` (R135). -/
theorem RingOk.syncC {v : Nat} (h : RingOk c r) (hclk : c.clocking = .async) (hv : v < c.modulus)
    (hbetween : subM c.modulus v r.headC ≤ subM c.modulus r.head r.headC) : RingOk c { r with headC := v } := by
  obtain ⟨⟨⟨hh, ht, htp, hhc⟩, hcount, htail, hpcount, hheadc, -⟩, hwritten⟩ := h
  have hvh := subM_add_subM hh hv hhc hbetween
  have hht := subM_add_subM hh hhc ht hheadc
  have hle : subM c.modulus v r.tail ≤ subM c.modulus r.head r.tail := by
    have := subM_spec hv ht
    have := subM_spec hv hhc
    have := subM_spec hhc ht
    have := subM_spec hh ht
    omega
  refine ⟨⟨⟨hh, ht, htp, hv⟩, hcount, htail, hpcount, hle, fun e => ?_⟩, hwritten⟩
  rw [hclk] at e
  cases e

theorem syncPEnabled_eq_true_iff {v : Nat} :
    syncPEnabled k v s = true ↔ k < s.cfg.rbCount ∧ (s.cfg.ring k).clocking = .async ∧ v < (s.cfg.ring k).modulus ∧
      subM (s.cfg.ring k).modulus v (ringAt s k).tailP ≤
        subM (s.cfg.ring k).modulus (ringAt s k).tail (ringAt s k).tailP := by
  simp only [syncPEnabled, Bool.and_eq_true, decide_eq_true_eq, and_assoc]

theorem syncCEnabled_eq_true_iff {v : Nat} :
    syncCEnabled k v s = true ↔ k < s.cfg.rbCount ∧ (s.cfg.ring k).clocking = .async ∧ v < (s.cfg.ring k).modulus ∧
      subM (s.cfg.ring k).modulus v (ringAt s k).headC ≤
        subM (s.cfg.ring k).modulus (ringAt s k).head (ringAt s k).headC := by
  simp only [syncCEnabled, Bool.and_eq_true, decide_eq_true_eq, and_assoc]

theorem ringsOk_iff_ringOk : RingsOk s ↔ ∀ k < s.cfg.rbCount, RingOk (s.cfg.ring k) (ringAt s k) := Iff.rfl

/-- Replacing a ring by one that meets the invariants keeps those of every ring. -/
theorem ringsOk_setRing (hk : k < s.rb.length) (h : RingsOk s) (hr : RingOk (s.cfg.ring k) r) :
    RingsOk (setRing k r s) := by
  rw [ringsOk_iff_ringOk] at h ⊢
  intro j hj
  rw [ringAt_setRing r j hk]
  split
  next e => exact e ▸ hr
  next => exact h j hj

theorem RingEffect.ringsOk (h : RingEffect s u) (hlen : s.rb.length = s.cfg.rbCount) (hs : RingsOk s) :
    RingsOk u := by
  have hring := ringsOk_iff_ringOk.1 hs
  cases h with
  | push d hk hfull =>
    rw [← Bool.not_eq_true, fullP_eq_true_iff] at hfull
    exact ringsOk_setRing (hlen ▸ hk) hs ((hring _ hk).push _ hfull)
  | pop hk hempty =>
    rw [← Bool.not_eq_true, emptyC_eq_true_iff] at hempty
    exact ringsOk_setRing (hlen ▸ hk) hs ((hring _ hk).pop hempty)
  | syncP hen =>
    obtain ⟨hk, hclk, hv, hbetween⟩ := syncPEnabled_eq_true_iff.1 hen
    exact ringsOk_setRing (hlen ▸ hk) hs ((hring _ hk).syncP hclk hv hbetween)
  | syncC hen =>
    obtain ⟨hk, hclk, hv, hbetween⟩ := syncCEnabled_eq_true_iff.1 hen
    exact ringsOk_setRing (hlen ▸ hk) hs ((hring _ hk).syncC hclk hv hbetween)

theorem Effect.ringsOk (h : Effect s u) (hlen : s.rb.length = s.cfg.rbCount) (hs : RingsOk s) : RingsOk u := by
  cases h with
  | none => exact hs
  | ring h => exact h.ringsOk hlen hs
  | service h =>
    rw [h.frame]
    exact hs
  | parser h =>
    rw [h.frame]
    exact hs
  | scheduler h =>
    rw [h.frame]
    exact hs

theorem ringAt_resetOf (c : Cfg) (k : Nat) : ringAt (State.resetOf c) k = Ring.reset := by
  simp only [ringAt, State.resetOf, List.getD_eq_getElem?_getD, List.getElem?_replicate]
  split <;> rfl

theorem ringsOk_resetOf (c : Cfg) : RingsOk (State.resetOf c) :=
  ringsOk_iff_ringOk.2 fun k _ => (ringAt_resetOf c k).symm ▸ ringOk_reset _

/-- Settles O56: each of the four ring operations keeps one ring's invariants, by the distances between its cursors. -/
theorem stepKeepsRingInvariants : Obligations.StepKeepsRingInvariants := fun _ _ hinv hstep =>
  step_establishes (Q := RingsOk) (fun s _ => ringsOk_resetOf s.cfg)
    (fun ⟨_, ⟨hlen, _⟩, _, _, hrings, _⟩ heffect => heffect.ringsOk hlen hrings) id hinv hstep

end Rings

/-! ### What a received byte does to service table and frame buffer (R213 to R220) -/

section Parser

/-- Only the parser may differ, and its frame buffer does not. -/
def KeepsBuffer (s t : State) : Prop := t = s.withFv t.fv ∧ t.fv.fbuf = s.fv.fbuf

/-- The state in which a good frame leaves the block: the port's parameters are the frame's, and it is pending (R220). -/
def committed (s : State) : State :=
  fvEnd s.cfg.ws.ok .header
    (setSvc s.fv.pidx.toNat
      { svcAt s s.fv.pidx.toNat with
        param := commitParam (s.fv.len - 1#8).toNat s (svcAt s s.fv.pidx.toNat).param, pending := true } s)

variable (b : Byte) (s : State)

theorem rxHeader_keepsBuffer : KeepsBuffer s (rxHeader b s) := by
  unfold rxHeader
  split
  · exact ⟨rfl, rfl⟩
  · split
    · exact ⟨rfl, rfl⟩
    · split
      · split <;> exact ⟨rfl, rfl⟩
      · exact ⟨rfl, rfl⟩

theorem rxLength_keepsBuffer : KeepsBuffer s (rxLength b s) := by
  unfold rxLength
  dsimp only
  split <;> exact ⟨rfl, rfl⟩

theorem rxPort_keepsBuffer : KeepsBuffer s (rxPort b s) := by
  unfold rxPort
  dsimp only
  split
  · exact ⟨rfl, rfl⟩
  · split
    · exact ⟨rfl, rfl⟩
    · split <;> exact ⟨rfl, rfl⟩

theorem rxChecksum_cases :
    KeepsBuffer s (rxChecksum b s) ∨
      (svcAt s s.fv.pidx.toNat).plen = s.fv.len - 1#8 ∧ rxChecksum b s = committed s := by
  unfold rxChecksum fvCommit
  dsimp only
  split
  · exact .inl ⟨rfl, rfl⟩
  · split
    · exact .inl ⟨rfl, rfl⟩
    · split
      · exact .inl ⟨rfl, rfl⟩
      next hlen =>
        split
        · exact .inl ⟨rfl, rfl⟩
        · exact .inr ⟨not_not.1 hlen, rfl⟩

/-- A received byte changes the frame buffer in DATA only, and the service table only by a commit in CHECKSUM. -/
theorem fvReceive_cases :
    KeepsBuffer s (fvReceive b s) ∨ s.fv.st = .data ∧ fvReceive b s = rxData b s ∨
      (svcAt s s.fv.pidx.toNat).plen = s.fv.len - 1#8 ∧ fvReceive b s = committed s := by
  unfold fvReceive
  split
  · exact .inl (rxHeader_keepsBuffer b s)
  · exact .inl (rxHeader_keepsBuffer b s)
  · exact .inl (rxHeader_keepsBuffer b s)
  · exact .inl (rxLength_keepsBuffer b s)
  · exact .inl (rxPort_keepsBuffer b s)
  next hst => exact .inr (.inl ⟨hst, rfl⟩)
  · exact (rxChecksum_cases b s).imp_right .inr
  · exact .inl ⟨rfl, rfl⟩

theorem fvTransfer_keepsBuffer : KeepsBuffer s (fvTransfer s) := by
  unfold fvTransfer
  split <;> exact ⟨rfl, rfl⟩

end Parser

/-! ### The table sizes and the issuing port (R30, R32, R36, R38) -/

section Shape

variable {s u : State}

theorem Effect.port (h : Effect s u) : u.port = s.port := by
  cases h with
  | none => rfl
  | ring h => rw [h.frame, withRb_port]
  | service h => rw [h.frame, withSsp_port, withSvc_port]
  | parser h => rw [h.frame, withFv_port, withSvc_port]
  | scheduler h => rw [h.frame, withTmr_port, withSch_port]

theorem Effect.portKnown (h : Effect s u) (hs : PortKnown s) : PortKnown u := by
  rwa [PortKnown, h.cfg, h.port]

theorem RingEffect.rb_length (h : RingEffect s u) : u.rb.length = s.rb.length := by
  cases h <;> exact List.length_set

theorem tickAll_slots_length (s : State) : (tickAll s).sch.slots.length = s.sch.slots.length :=
  List.length_map _

theorem SchedulerEffect.slots_length (h : SchedulerEffect s u) : u.sch.slots.length = s.sch.slots.length := by
  cases h with
  | add => exact List.length_set
  | delete => exact List.length_set
  | passEnd => rfl
  | handOut => exact List.length_set
  | @finish j =>
    by_cases hp : (slotAt s j).period = 0#12
    · rw [finish_of_oneShot hp]
      exact List.length_set
    · rw [finish_of_periodic hp]
      rfl
  | writeControl => rfl
  | writeReload => rfl
  | tick => exact tickAll_slots_length s
  | clock =>
    obtain ⟨tmr, e | e⟩ := timerClock_cases s
    · rw [e]
      rfl
    · rw [e]
      exact tickAll_slots_length _

/-- Replacing a service port by one with as many parameter bytes keeps the table sizes. -/
theorem shaped_setSvc {i : Nat} {p : SvcPort} (hs : Shaped s) (hi : i < s.cfg.portCount)
    (hp : p.param.length = s.cfg.maxLen.toNat - 1) : Shaped (setSvc i p s) := by
  obtain ⟨hrb, hsvc, hslots, hresult, hparam⟩ := hs
  refine ⟨hrb, List.length_set.trans hsvc, hslots, hresult, fun j hj => ?_⟩
  rw [svcAt_setSvc p j (hsvc ▸ hi)]
  split
  next => exact hp
  next => exact hparam j hj

theorem ServiceEffect.shaped (h : ServiceEffect s u) (hs : Shaped s) : Shaped u := by
  have ⟨_, _, _, _, hparam⟩ := hs
  cases h with
  | register hi => exact shaped_setSvc hs hi List.length_replicate
  | delete hi => exact shaped_setSvc hs hi (hparam _ hi)
  | done v hi => exact shaped_setSvc hs hi (hparam _ hi)
  | passEnd => exact hs
  | next => exact hs

theorem KeepsBuffer.shaped (h : KeepsBuffer s u) (hs : Shaped s) : Shaped u := by
  rw [h.1]
  exact hs

/-- A commit keeps the number of parameter bytes: the frame is as long as the service's parameters (R220). -/
theorem shaped_committed (hlen : (svcAt s s.fv.pidx.toNat).plen = s.fv.len - 1#8) (hs : Shaped s)
    (hservices : ServicesOk s) (hparser : ParserOk s) : Shaped (committed s) := by
  obtain ⟨-, hports⟩ := hservices
  obtain ⟨-, hidx, -⟩ := hparser
  obtain ⟨-, -, hplen⟩ := hports _ hidx
  have ⟨_, _, _, _, hparam⟩ := hs
  have hold := hparam _ hidx
  have hnew := length_commitParam (s := s) (n := (s.fv.len - 1#8).toNat) (hlen ▸ hold ▸ hplen)
  exact shaped_setSvc hs hidx (hnew.trans hold)

theorem ParserEffect.shaped (h : ParserEffect s u) (hs : Shaped s) (hservices : ServicesOk s)
    (hparser : ParserOk s) : Shaped u := by
  cases h with
  | receive b =>
    obtain hkeeps | ⟨-, e⟩ | ⟨hlen, e⟩ := fvReceive_cases b s
    · exact hkeeps.shaped hs
    · exact e ▸ hs
    · exact e ▸ shaped_committed hlen hs hservices hparser
  | transfer => exact (fvTransfer_keepsBuffer s).shaped hs

theorem Effect.shaped (h : Effect s u) (hs : Shaped s) (hservices : ServicesOk s) (hparser : ParserOk s) :
    Shaped u := by
  cases h with
  | none => exact hs
  | ring h =>
    obtain ⟨hrb, htables⟩ := hs
    rw [h.frame]
    exact ⟨h.rb_length.trans hrb, htables⟩
  | service h => exact h.shaped hs
  | parser h => exact h.shaped hs hservices hparser
  | scheduler h =>
    obtain ⟨hrb, hsvc, hslots, hresult⟩ := hs
    rw [h.frame]
    exact ⟨hrb, hsvc, h.slots_length.trans hslots, hresult⟩

theorem svcAt_resetOf (c : Cfg) (i : Nat) : svcAt (State.resetOf c) i = SvcPort.reset c := by
  simp only [svcAt, State.resetOf, List.getD_eq_getElem?_getD, List.getElem?_replicate]
  split <;> rfl

theorem shaped_resetOf (c : Cfg) : Shaped (State.resetOf c) :=
  ⟨List.length_replicate, List.length_replicate, List.length_replicate, List.length_replicate,
    fun i _ => (svcAt_resetOf c i).symm ▸ List.length_replicate⟩

theorem shaped_respond {rc : ResultCode} {data : Half} (h : Shaped s) : Shaped (respond rc data s) := by
  obtain ⟨hrb, hsvc, hslots, hresult, hparam⟩ := h
  exact ⟨hrb, hsvc, hslots, List.length_set.trans hresult, hparam⟩

/-- Settles O54: the effects replace table entries and never resize a table; a commit copies as many bytes as it drops. -/
theorem stepKeepsShape : Obligations.StepKeepsShape := fun _ _ hinv hstep =>
  ⟨step_cfg hstep,
    step_establishes (Q := fun t => Shaped t ∧ PortKnown t) (fun s _ => ⟨shaped_resetOf s.cfg, rfl⟩)
      (fun ⟨_, hshape, hport, _, _, hservices, hparser, _⟩ heffect =>
        ⟨heffect.shaped hshape hservices hparser, heffect.portKnown hport⟩)
      (fun ⟨hshape, hport⟩ => ⟨shaped_respond hshape, hport⟩) hinv hstep⟩

end Shape

/-! ### The canonical form of the storage (R32, R37, R70) -/

section Storage

variable {s u : State}

theorem RingEffect.memory_wf (h : RingEffect s u) (hlen : s.rb.length = s.cfg.rbCount) (hs : Memory.wf s = true) :
    Memory.wf u = true := by
  have hring := (Memory_wf_iff.1 hs).1
  cases h with
  | push d hk => exact Memory_wf_ringPush d (hlen ▸ hk) hk hs
  | pop hk => exact Memory_wf_ringPop (hlen ▸ hk) hk hs
  | syncP hen =>
    have hk := (syncPEnabled_eq_true_iff.1 hen).1
    exact Memory_wf_setRing (hlen ▸ hk) (hring _ hk) hs
  | syncC hen =>
    have hk := (syncCEnabled_eq_true_iff.1 hen).1
    exact Memory_wf_setRing (hlen ▸ hk) (hring _ hk) hs

theorem KeepsBuffer.memory_wf (h : KeepsBuffer s u) (hs : Memory.wf s = true) : Memory.wf u = true :=
  Memory_wf_congr (h.1 ▸ rfl) (h.1 ▸ rfl) h.2 hs

/-- In DATA the next byte's index is below `MAX_LEN - 1` (R215, R217). -/
theorem cnt_lt_of_data (hparser : ParserOk s) (hst : s.fv.st = .data) :
    s.fv.cnt.toNat < s.cfg.maxLen.toNat - 1 := by
  obtain ⟨-, -, hlen, hdata, -⟩ := hparser
  have hcnt := hdata hst
  have := (hlen (by rw [hst]; rfl)).2
  omega

theorem ParserEffect.memory_wf (h : ParserEffect s u) (hparser : ParserOk s) (hs : Memory.wf s = true) :
    Memory.wf u = true := by
  cases h with
  | receive b =>
    obtain hkeeps | ⟨hst, e⟩ | ⟨-, e⟩ := fvReceive_cases b s
    · exact hkeeps.memory_wf hs
    · exact e ▸ Memory_wf_rxData b (cnt_lt_of_data hparser hst) hs
    · exact e ▸ hs
  | transfer => exact (fvTransfer_keepsBuffer s).memory_wf hs

theorem Effect.memory_wf (h : Effect s u) (hlen : s.rb.length = s.cfg.rbCount) (hparser : ParserOk s)
    (hs : Memory.wf s = true) : Memory.wf u = true := by
  cases h with
  | none => exact hs
  | ring h => exact h.memory_wf hlen hs
  | service h =>
    rw [h.frame]
    exact hs
  | parser h => exact h.memory_wf hparser hs
  | scheduler h =>
    rw [h.frame]
    exact hs

/-- Settles O55: storage is written by a push, at an index taken modulo `CAP`, and by a byte received in DATA, at an
index below `MAX_LEN - 1`. -/
theorem stepKeepsStorageCanonical : Obligations.StepKeepsStorageCanonical := fun _ _ hinv hstep =>
  step_establishes (Q := fun t => Memory.wf t = true) (fun s _ => Memory_wf_resetOf s.cfg)
    (fun ⟨_, ⟨hlen, _⟩, _, hmem, _, _, hparser, _⟩ heffect => heffect.memory_wf hlen hparser hmem) id hinv hstep

end Storage

/-! ### The scheduler and the timer (R39, R150 to R155) -/

section Scheduler

/-- Every slot that is not occupied is all 0 (R38). -/
def EmptySlotsZero (s : State) : Prop := ∀ j, j < s.cfg.slotCount → (slotAt s j).occ = false → slotAt s j = Slot.empty

variable {s u : State} {j : Nat} {x : Slot}

theorem schedulerOk_of_hasSched (hs : s.cfg.hasSched = true) (hsp : s.sch.sp.toNat ≤ s.cfg.nslots)
    (hif : s.sch.ifslot.toNat < s.cfg.nslots)
    (hflight : s.sch.inflight = true → (slotAt s s.sch.ifslot.toNat).occ = true)
    (htmr : s.cfg.hasTimer = false → s.tmr = Timer.reset) (hempty : EmptySlotsZero s) : SchedulerOk s :=
  ⟨fun _ => ⟨hsp, hif, hflight⟩, fun h => absurd (h.symm.trans hs) Bool.false_ne_true, htmr, hempty⟩

theorem emptySlotsZero_setSlot (hj : j < s.sch.slots.length) (h : EmptySlotsZero s)
    (hx : x.occ = false → x = Slot.empty) : EmptySlotsZero (setSlot j x s) := by
  intro i hi
  rw [slotAt_setSlot x i hj]
  split
  next => exact hx
  next => exact h i hi

@[simp] theorem newTask_occ (d p : BitVec 12) : (newTask d p).occ = true := by
  unfold newTask
  split <;> rfl

/-- Outside a task's run, replacing a slot that is empty only if it is all 0 keeps the invariants. -/
theorem schedulerOk_setSlot (hs : s.cfg.hasSched = true) (hidle : s.sch.inflight = false)
    (hj : j < s.sch.slots.length) (hx : x.occ = false → x = Slot.empty) (h : SchedulerOk s) :
    SchedulerOk (setSlot j x s) := by
  obtain ⟨hscan, -, htmr, hempty⟩ := h
  obtain ⟨hsp, hif, -⟩ := hscan hs
  exact schedulerOk_of_hasSched hs hsp hif (fun hfl => absurd (hidle.symm.trans hfl) Bool.false_ne_true) htmr
    (emptySlotsZero_setSlot hj hempty hx)

/-- The task handed out is occupied, and the scan position stays within the slots (R154). -/
theorem schedulerOk_handOut (hw : s.cfg.wf = true) (hs : s.cfg.hasSched = true)
    (hlen : s.sch.slots.length = s.cfg.nslots) (hdue : nextDue s = some j) (h : SchedulerOk s) :
    SchedulerOk (handOut j s) := by
  obtain ⟨-, -, htmr, hempty⟩ := h
  obtain ⟨hj, hnext, -⟩ := lowest_eq_some_iff.1 hdue
  have hocc : (slotAt s j).occ = true := (due_eq_true_iff.1 (Bool.and_eq_true_iff.1 hnext).2).1
  have hle := nslots_le hw hs
  have hsp : (handOut j s).sch.sp.toNat = j + 1 := Nat.mod_eq_of_lt (by omega)
  have hif : (handOut j s).sch.ifslot.toNat = j := Nat.mod_eq_of_lt (by omega)
  refine schedulerOk_of_hasSched hs (hsp ▸ hj) (hif.symm ▸ hj) (fun _ => ?_) htmr
    (emptySlotsZero_setSlot (hlen ▸ hj) hempty fun hfree => absurd (hfree.symm.trans hocc) Bool.false_ne_true)
  rw [hif, slotAt_handOut j (hlen ▸ hj), if_pos rfl]
  exact hocc

/-- With no task in flight any more, a finished one-shot slot is empty and all 0 (R155). -/
theorem schedulerOk_finish (hs : s.cfg.hasSched = true) (hj : j < s.sch.slots.length) (h : SchedulerOk s) :
    SchedulerOk (finish j s) := by
  obtain ⟨hscan, -, htmr, hempty⟩ := h
  obtain ⟨hsp, hif, -⟩ := hscan hs
  have hidle : SchedulerOk (s.withSch { s.sch with inflight := false }) :=
    schedulerOk_of_hasSched hs hsp hif (fun hfl => absurd hfl Bool.false_ne_true) htmr hempty
  by_cases hp : (slotAt s j).period = 0#12
  · rw [finish_of_oneShot hp]
    exact schedulerOk_setSlot hs rfl hj (fun _ => by dsimp only; rw [hp]; rfl) hidle
  · rw [finish_of_periodic hp]
    exact hidle

theorem schedulerOk_withTmr (tmr : Timer) (ht : s.cfg.hasTimer = true) (h : SchedulerOk s) :
    SchedulerOk (s.withTmr tmr) := by
  obtain ⟨hscan, habsent, -, hempty⟩ := h
  exact ⟨hscan, habsent, fun hno => absurd (hno.symm.trans ht) Bool.false_ne_true, hempty⟩

/-- A TICK occupies and frees no slot, and an empty slot stays as it is (R153). -/
theorem schedulerOk_tickAll (hs : s.cfg.hasSched = true) (h : SchedulerOk s) : SchedulerOk (tickAll s) := by
  obtain ⟨hscan, -, htmr, hempty⟩ := h
  obtain ⟨hsp, hif, hflight⟩ := hscan hs
  refine schedulerOk_of_hasSched hs hsp hif (fun hfl => ?_) htmr fun i hi hocc => ?_
  · rw [slotAt_tickAll, tickSlot_occ]
    exact hflight hfl
  · rw [slotAt_tickAll] at hocc ⊢
    rw [tickSlot_occ] at hocc
    rw [hempty i hi hocc, tickSlot_empty]

theorem SchedulerEffect.schedulerOk (h : SchedulerEffect s u) (hready : Ready s) (hok : SchedulerOk s) :
    SchedulerOk u := by
  have hlen := Machine.slots_length hready
  have hw := hready.1
  cases h with
  | add d p hs hidle hfree =>
    have hj := (lowest_eq_some_iff.1 hfree).1
    exact schedulerOk_setSlot hs hidle (hlen hs ▸ hj) (fun hocc => by simp at hocc) hok
  | delete hs hidle hj => exact schedulerOk_setSlot hs hidle (hlen hs ▸ hj) (fun _ => rfl) hok
  | passEnd hs =>
    obtain ⟨hscan, -, htmr, hempty⟩ := hok
    obtain ⟨-, hif, hflight⟩ := hscan hs
    exact schedulerOk_of_hasSched hs (Nat.zero_le _) hif hflight htmr hempty
  | handOut hs _ hdue => exact schedulerOk_handOut hw hs (hlen hs) hdue hok
  | finish hs hj => exact schedulerOk_finish hs (hlen hs ▸ hj) hok
  | writeControl v ht => exact schedulerOk_withTmr _ ht hok
  | writeReload v ht => exact schedulerOk_withTmr _ ht hok
  | tick hs => exact schedulerOk_tickAll hs hok
  | clock ht =>
    obtain ⟨tmr, e | e⟩ := timerClock_cases s
    · exact e ▸ schedulerOk_withTmr tmr ht hok
    · exact e ▸ schedulerOk_tickAll (hasSched_of_hasTimer hw ht) (schedulerOk_withTmr tmr ht hok)

theorem Effect.schedulerOk (h : Effect s u) (hready : Ready s) (hok : SchedulerOk s) : SchedulerOk u := by
  cases h with
  | none => exact hok
  | ring h =>
    rw [h.frame]
    exact hok
  | service h =>
    rw [h.frame]
    exact hok
  | parser h =>
    rw [h.frame]
    exact hok
  | scheduler h => exact h.schedulerOk hready hok

theorem slotAt_resetOf (c : Cfg) (j : Nat) : slotAt (State.resetOf c) j = Slot.empty := by
  simp only [slotAt, State.resetOf, Sched.reset, List.getD_eq_getElem?_getD, List.getElem?_replicate]
  split <;> rfl

theorem schedulerOk_resetOf {c : Cfg} (hw : c.wf = true) : SchedulerOk (State.resetOf c) := by
  obtain ⟨-, hslots, -⟩ := cfg_wf_iff.1 hw
  exact ⟨fun hs => ⟨Nat.zero_le _, (slotsOk_iff.1 hslots hs).1, fun hfl => absurd hfl Bool.false_ne_true⟩,
    fun _ => rfl, fun _ => rfl, fun j _ _ => slotAt_resetOf c j⟩

/-- Settles O59: only the scheduler's and the timer's own effects touch these fields, and they need the unit. -/
theorem stepKeepsSchedulerInvariants : Obligations.StepKeepsSchedulerInvariants := fun _ _ hinv hstep =>
  step_establishes (Q := SchedulerOk) (fun _ hw => schedulerOk_resetOf hw)
    (fun ⟨hw, hshape, hport, _, _, _, _, hsched, _⟩ heffect => heffect.schedulerOk ⟨hw, hshape, hport⟩ hsched)
    id hinv hstep

end Scheduler

/-! ### The level outputs (R42, R300, R301) -/

section Outputs

variable {s : State}

theorem rbNotEmptyOut_eq_true_iff {k : Nat} :
    rbNotEmptyOut s k = true ↔ subM (s.cfg.ring k).modulus (ringAt s k).headC (ringAt s k).tail ≠ 0 := by
  rw [rbNotEmptyOut, Bool.not_eq_true', ← Bool.not_eq_true, emptyC_eq_true_iff]

theorem rbNotFullOut_eq_true_iff {k : Nat} :
    rbNotFullOut s k = true ↔
      subM (s.cfg.ring k).modulus (ringAt s k).head (ringAt s k).tailP ≠ (s.cfg.ring k).cap := by
  rw [rbNotFullOut, Bool.not_eq_true', ← Bool.not_eq_true, fullP_eq_true_iff]

theorem svcPendOut_eq_true_iff : svcPendOut s = true ↔ ∃ i < s.cfg.portCount, (svcAt s i).pending = true := by
  simp only [svcPendOut, List.any_eq_true, List.mem_range]

theorem taskDueOut_eq_true_iff :
    taskDueOut s = true ↔
      s.cfg.hasSched = true ∧ ∃ j < s.cfg.nslots, (slotAt s j).occ = true ∧ 0 < (slotAt s j).run.toNat := by
  simp only [taskDueOut, Bool.and_eq_true, List.any_eq_true, List.mem_range, due_eq_true_iff]

/-- Settles O50: after RESET all cursors of a ring are equal, no port is pending and no slot is occupied. -/
theorem outputsAfterReset : Obligations.OutputsAfterReset := by
  refine ⟨fun s _ => ⟨fun k _ => ⟨rbNotEmptyOut_eq_true_iff, rbNotFullOut_eq_true_iff⟩, svcPendOut_eq_true_iff,
    taskDueOut_eq_true_iff⟩, fun c _ => ⟨fun k _ => ?_, ?_, ?_⟩⟩
  · have hcap := cap_pos (c.ring k)
    have hself : subM (c.ring k).modulus 0 0 = 0 := subM_self (hcap.trans (cap_lt_modulus _))
    rw [← Bool.not_eq_true, rbNotEmptyOut_eq_true_iff, rbNotFullOut_eq_true_iff, ringAt_resetOf]
    exact ⟨not_not.2 hself, fun e => hcap.ne (hself.symm.trans e)⟩
  · rw [← Bool.not_eq_true, svcPendOut_eq_true_iff]
    rintro ⟨i, -, hpending⟩
    rw [svcAt_resetOf] at hpending
    cases hpending
  · rw [← Bool.not_eq_true, taskDueOut_eq_true_iff]
    rintro ⟨-, j, -, hocc, -⟩
    rw [slotAt_resetOf] at hocc
    cases hocc

end Outputs

end Sys2Proof.Machine

/-! ## The queue a ring represents, what each command can change, the busy guard, the parser's invariants and the bus

Settled here: O13, O12, O58, O8, O7, O23, O51 and O52. A step that is not RESET either runs a decoded command or leaves
the service table alone (`step_of_not_reset`); in both cases it is one effect of `step_cases` and perhaps an answer. -/

namespace Sys2Proof.Machine

/-! ### The queue a ring represents (R33, R78, R131, R132) -/

section Queue

variable {s t u : State} {j k : Nat} {r : Ring}

/-- Replacing ring `j`, in the table or not, leaves the other rings. -/
theorem ringAt_setRing_of_ne (r : Ring) (hne : k ≠ j) : ringAt (setRing j r s) k = ringAt s k := by
  rw [ringAt, ringAt, setRing, withRb_rb, List.getD_eq_getElem?_getD, List.getD_eq_getElem?_getD,
    List.getElem?_set_ne hne.symm]

/-- A field that the new value of a ring shares with the old one is the same in every ring. -/
theorem ringAt_setRing_field {α : Type} (field : Ring → α) (h : field r = field (ringAt s j)) (k : Nat) :
    field (ringAt (setRing j r s) k) = field (ringAt s k) := by
  by_cases hkj : k = j
  · subst hkj
    by_cases hk : k < s.rb.length
    · rw [ringAt_setRing r k hk, if_pos rfl, h]
    · rw [setRing, List.set_eq_of_length_le (Nat.le_of_not_lt hk), withRb_self]
  · rw [ringAt_setRing_of_ne r hkj]

theorem contents_length (s : State) (k : Nat) : (contents s k).length = count s k := by
  rw [contents, List.length_map, List.length_range]

/-- The queue is read from `head`, `tail` and the storage alone, not from the cursor copies. -/
theorem contents_congr (hc : t.cfg = s.cfg) (he : t.epoch = s.epoch) (hhead : (ringAt t k).head = (ringAt s k).head)
    (htail : (ringAt t k).tail = (ringAt s k).tail) (hmem : (ringAt t k).mem = (ringAt s k).mem) :
    contents t k = contents s k := by
  simp only [contents, count, memRead, hc, he, hhead, htail, hmem]

theorem contents_setRing_of_ne (hne : k ≠ j) : contents (setRing j r s) k = contents s k := by
  have hsame := ringAt_setRing_of_ne (s := s) r hne
  exact contents_congr rfl rfl (congrArg _ hsame) (congrArg _ hsame) (congrArg _ hsame)

/-- A new value of a cursor copy changes no queue (R134, R135). -/
theorem contents_setRing_of_copies (k : Nat) (hhead : r.head = (ringAt s j).head)
    (htail : r.tail = (ringAt s j).tail) (hmem : r.mem = (ringAt s j).mem) :
    contents (setRing j r s) k = contents s k :=
  contents_congr rfl rfl (ringAt_setRing_field Ring.head hhead k) (ringAt_setRing_field Ring.tail htail k)
    (ringAt_setRing_field Ring.mem hmem k)

/-- Where the producer sees room there is room: `tail_p` lies behind `tail` (R35). -/
theorem count_lt_cap (hok : RingOk (s.cfg.ring k) (ringAt s k)) (hroom : fullP s k = false) :
    count s k < (s.cfg.ring k).cap := by
  rw [← Bool.not_eq_true, fullP_eq_true_iff] at hroom
  obtain ⟨⟨⟨hh, ht, htp, -⟩, -, htail, hpcount, -⟩, -⟩ := hok
  have hsplit := subM_add_subM hh ht htp htail
  rw [count]
  omega

theorem count_ringPush (d : Half) (hk : k < s.rb.length) (hok : RingOk (s.cfg.ring k) (ringAt s k))
    (hroom : fullP s k = false) : count (ringPush k d s) k = count s k + 1 := by
  have hlt := count_lt_cap hok hroom
  have hcap := cap_lt_modulus (s.cfg.ring k)
  obtain ⟨⟨⟨hh, ht, -⟩, -⟩, -⟩ := hok
  rw [count] at hlt
  have hcount := subM_addM_one_left hh ht (by omega)
  rwa [count, ringAt_ringPush d k hk, if_pos rfl]

/-- Below `CAP` elements, the slot of the next element holds none of those already there. -/
theorem add_mod_ne_add_mod_of_lt {cap tail i n : Nat} (hi : i < n) (hn : n < cap) : (tail + i) % cap ≠ (tail + n) % cap := by
  intro h
  have hmod : i % cap = n % cap := Nat.ModEq.add_left_cancel' tail h
  rw [Nat.mod_eq_of_lt hn, Nat.mod_eq_of_lt (hi.trans hn)] at hmod
  omega

/-- A push that is not full appends the element, truncated to WIDTH (R78, R131). -/
theorem contents_ringPush (d : Half) (hk : k < s.rb.length) (hok : RingOk (s.cfg.ring k) (ringAt s k))
    (hroom : fullP s k = false) :
    contents (ringPush k d s) k = contents s k ++ [elementOf (s.cfg.ring k).width d] := by
  have hlt := count_lt_cap hok hroom
  have ⟨⟨⟨hh, ht, _⟩, _⟩, _⟩ := hok
  have hslot : ((ringAt s k).tail + count s k) % (s.cfg.ring k).cap = (ringAt s k).head % (s.cfg.ring k).cap :=
    add_subM_mod_cap hh ht
  have htail : (ringAt (ringPush k d s) k).tail = (ringAt s k).tail := by rw [ringAt_ringPush d k hk, if_pos rfl]
  have hcfg : (ringPush k d s).cfg = s.cfg := rfl
  have hold : ∀ i ∈ List.range (count s k),
      memRead (ringPush k d s) k (((ringAt s k).tail + i) % (s.cfg.ring k).cap) =
        memRead s k (((ringAt s k).tail + i) % (s.cfg.ring k).cap) := by
    intro i hi
    rw [memRead_ringPush d _ hk, ← hslot, if_neg (add_mod_ne_add_mod_of_lt (List.mem_range.1 hi) hlt)]
  rw [contents, count_ringPush d hk hok hroom, htail, hcfg, List.range_succ, List.map_append, List.map_singleton,
    List.map_congr_left hold, hslot, memRead_ringPush d _ hk, if_pos rfl, ← contents]

theorem count_ringPop (hk : k < s.rb.length) (hok : RingOk (s.cfg.ring k) (ringAt s k))
    (hsome : emptyC s k = false) : count (ringPop k s) k + 1 = count s k := by
  rw [← Bool.not_eq_true, emptyC_eq_true_iff] at hsome
  obtain ⟨⟨⟨hh, ht, -⟩, -, -, -, hheadc, -⟩, -⟩ := hok
  have hcount := subM_addM_one_right hh ht (by omega)
  rwa [count, ringAt_ringPop k hk, if_pos rfl]

/-- A pop that is not empty removes the oldest element, the one at slot `tail mod CAP` (R78, R132). -/
theorem contents_ringPop (hk : k < s.rb.length) (hok : RingOk (s.cfg.ring k) (ringAt s k))
    (hsome : emptyC s k = false) :
    contents s k = memRead s k ((ringAt s k).tail % (s.cfg.ring k).cap) :: contents (ringPop k s) k := by
  have htail : (ringAt (ringPop k s) k).tail = addM (s.cfg.ring k).modulus (ringAt s k).tail 1 := by
    rw [ringAt_ringPop k hk, if_pos rfl]
  have hcfg : (ringPop k s).cfg = s.cfg := rfl
  rw [contents, contents, ← count_ringPop hk hok hsome, List.range_succ_eq_map, List.map_cons, List.map_map, htail,
    hcfg, Nat.add_zero]
  congr 1
  refine List.map_congr_left fun i _ => ?_
  rw [memRead_ringPop _ hk, addM_one_add_mod_cap]
  rfl

/-- What an effect on some ring does to the queue of ring `k` (R78, R139). -/
theorem RingEffect.queueStep (h : RingEffect s u) (hlen : s.rb.length = s.cfg.rbCount) (hs : RingsOk s) (k : Nat) :
    QueueStep (contents s k) (contents u k) := by
  have hring := ringsOk_iff_ringOk.1 hs
  cases h with
  | @push j d hj hroom =>
    by_cases hkj : k = j
    · subst hkj
      exact .inr (.inl ⟨_, contents_ringPush d (hlen ▸ hj) (hring k hj) hroom⟩)
    · exact .inl (contents_setRing_of_ne hkj)
  | @pop j hj hsome =>
    by_cases hkj : k = j
    · subst hkj
      exact .inr (.inr ⟨_, contents_ringPop (hlen ▸ hj) (hring k hj) hsome⟩)
    · exact .inl (contents_setRing_of_ne hkj)
  | syncP => exact .inl (contents_setRing_of_copies k rfl rfl rfl)
  | syncC => exact .inl (contents_setRing_of_copies k rfl rfl rfl)

theorem Effect.queueStep (h : Effect s u) (hlen : s.rb.length = s.cfg.rbCount) (hs : RingsOk s) (k : Nat) :
    QueueStep (contents s k) (contents u k) := by
  cases h with
  | none => exact .inl rfl
  | ring h => exact h.queueStep hlen hs k
  | service h =>
    rw [h.frame]
    exact .inl rfl
  | parser h =>
    rw [h.frame]
    exact .inl rfl
  | scheduler h =>
    rw [h.frame]
    exact .inl rfl

theorem Taken.contents (h : Taken s u) (k : Nat) : contents u k = contents s k := by
  obtain ⟨_, _, _, rfl, _⟩ := h
  rfl

/-- Taking an input and answering it leave every queue alone; the effect between them is one queue step. -/
theorem Reached.queueStep (h : Reached s t) (hinv : Inv s) (k : Nat) :
    QueueStep (Machine.contents s k) (Machine.contents t k) := by
  obtain ⟨s1, htaken, heffect⟩ := h
  obtain ⟨_, ⟨hlen, _⟩, _, _, hrings, _⟩ := htaken.inv hinv
  rw [← htaken.contents k]
  obtain heffect | ⟨u, rc, data, heffect, rfl⟩ := heffect
  · exact heffect.queueStep hlen hrings k
  · exact heffect.queueStep hlen hrings k

theorem elementOf_of_w8 {w : ElemWidth} (h : w = .w8) (d : Half) :
    elementOf w d = (d.extractLsb' 0 8).setWidth 16 := by
  have hlow : d.setWidth 8 = d.extractLsb' 0 8 := BitVec.setWidth_eq_extractLsb' (by decide)
  rw [h, elementOf, hlow]

theorem elementOf_of_w16 {w : ElemWidth} (h : w = .w16) (d : Half) : elementOf w d = d := by
  rw [h, elementOf]

theorem exec_rbPush_of_room {k : BitVec 8} {d : Half} (hk : k.toNat < s.cfg.rbCount)
    (hp : s.port = .producer k.toNat) (hroom : fullP s k.toNat = false) :
    exec (.rbPush k d) s = .next (respond .ok 0#16 (ringPush k.toNat d s)) := by
  have hlegal : onProducer k s = true := onProducer_eq_true_iff.2 ⟨hk, hp⟩
  simp only [exec, execRbPush, hlegal, ifLegal_true, hroom, Bool.false_eq_true, if_false]

theorem exec_rbPop_of_some {k : BitVec 8} (hk : k.toNat < s.cfg.rbCount) (hp : s.port = .consumer k.toNat)
    (hsome : emptyC s k.toNat = false) :
    exec (.rbPop k) s =
      .next (respond .ok (memRead s k.toNat ((ringAt s k.toNat).tail % (s.cfg.ring k.toNat).cap))
        (ringPop k.toNat s)) := by
  have hlegal : onConsumer k s = true := onConsumer_eq_true_iff.2 ⟨hk, hp⟩
  simp only [exec, execRbPop, hlegal, ifLegal_true, hsome, Bool.false_eq_true, if_false]

/-- Settles O12, by `contents_ringPush` and `contents_ringPop`. -/
theorem pushAppendsAndPopTakesOldest : Obligations.PushAppendsAndPopTakesOldest := by
  intro s t k d ⟨hw, hshape, hport, _, hrings, _⟩ hk c r
  have hlen : k.toNat < s.rb.length := hshape.1.symm ▸ hk
  have hok : RingOk c r := ringsOk_iff_ringOk.1 hrings _ hk
  constructor
  · intro hp hne hexec
    have hroom : fullP s k.toNat = false := by rwa [← Bool.not_eq_true, fullP_eq_true_iff]
    rw [exec_rbPush_of_room hk hp hroom] at hexec
    cases hexec
    have hpush : contents (respond .ok 0#16 (ringPush k.toNat d s)) k.toNat = _ := contents_ringPush d hlen hok hroom
    refine ⟨?_, ?_⟩
    · rw [hpush]
      split
      next hwidth => rw [elementOf_of_w8 hwidth]
      next hwidth => rw [elementOf_of_w16 hwidth]
    · rw [hpush, List.length_append, contents_length, List.length_singleton]
      exact count_lt_cap hok hroom
  · intro hp hne hexec
    have hsome : emptyC s k.toNat = false := by rwa [← Bool.not_eq_true, emptyC_eq_true_iff]
    rw [exec_rbPop_of_some hk hp hsome] at hexec
    cases hexec
    exact ⟨_, contents_ringPop hlen hok hsome, (answers_respond ⟨hw, hshape, hport⟩ rfl rfl).1⟩

end Queue

/-! ### The bus windows of the command ports (R74, R76) -/

section Bus

variable {c : Cfg} {s t : State} {p : Port} {addr size : Nat} {data w : Word}

theorem touchesBlock_eq_true_iff :
    touchesBlock c addr size = true ↔ c.blockBase < addr + size ∧ addr < c.blockBase + 8 * c.cmdPorts := by
  rw [touchesBlock, Bool.and_eq_true, decide_eq_true_iff, decide_eq_true_iff]

theorem aligned32_eq_true_iff : aligned32 addr size = true ↔ size = 4 ∧ addr % 4 = 0 := by
  rw [aligned32, Bool.and_eq_true, decide_eq_true_iff, decide_eq_true_iff]

theorem isCmdAddr_eq_true_iff : isCmdAddr c addr = true ↔ (addr - c.blockBase) % 8 = 0 := decide_eq_true_iff

theorem blockBase_mod_eight (hw : c.wf = true) : c.blockBase % 8 = 0 := by
  obtain ⟨-, -, -, -, -, -, -, hbase⟩ := cfg_wf_iff.1 hw
  exact baseOk_iff.1 hbase

/-- The address of a port's CMD register: the start of its window (R76). -/
def cmdAddr (c : Cfg) (p : Port) : Nat := c.blockBase + 8 * portNumber p

/-- A CMD or RESULT register of an existing port is a word of the block that an aligned access reaches (R76). -/
theorem reaches_window {o : Nat} (hw : c.wf = true) (hp : portExists c p = true) (ho : o = 0 ∨ o = 4) :
    touchesBlock c (cmdAddr c p + o) 4 = true ∧ aligned32 (cmdAddr c p + o) 4 = true := by
  have hlt := portNumber_lt hp
  have hbase := blockBase_mod_eight hw
  rw [touchesBlock_eq_true_iff, aligned32_eq_true_iff, cmdAddr]
  omega

theorem windowPort_cmdAddr_add {o : Nat} (ho : o < 8) : windowPort c (cmdAddr c p + o) = p := by
  have hnumber : (cmdAddr c p + o - c.blockBase) / 8 = portNumber p := by
    rw [cmdAddr]
    omega
  rw [windowPort, hnumber, portOfNumber_portNumber]

theorem isCmdAddr_cmdAddr (c : Cfg) (p : Port) : isCmdAddr c (cmdAddr c p) = true := by
  rw [isCmdAddr_eq_true_iff, cmdAddr]
  omega

/-- RESULT is at offset 4 of the window, which is no CMD register. -/
theorem isCmdAddr_result (c : Cfg) (p : Port) : isCmdAddr c (cmdAddr c p + 4) = false := by
  rw [← Bool.not_eq_true, isCmdAddr_eq_true_iff, cmdAddr]
  omega

theorem portNumber_portOfNumber (n : Nat) : portNumber (portOfNumber n) = n := by
  unfold portOfNumber
  split
  next h => exact h.symm
  next =>
    split
    next h => exact h.symm
    next =>
      split <;> rw [portNumber] <;> omega

/-- An aligned access to the block at offset 0 of a window is at that port's CMD register. -/
theorem eq_cmdAddr_windowPort (hw : c.wf = true) (ht : touchesBlock c addr size = true)
    (ha : aligned32 addr size = true) (hcmd : isCmdAddr c addr = true) : addr = cmdAddr c (windowPort c addr) := by
  have hbase := blockBase_mod_eight hw
  rw [touchesBlock_eq_true_iff] at ht
  rw [aligned32_eq_true_iff] at ha
  rw [isCmdAddr_eq_true_iff] at hcmd
  rw [cmdAddr, windowPort, portNumber_portOfNumber]
  omega

/-! What each kind of access does. -/

theorem busWrite_of_not_aligned (ht : touchesBlock s.cfg addr size = true) (ha : aligned32 addr size = false) :
    busWrite addr size data s = .next (s.withBus .error) := by
  rw [busWrite, if_neg (by rw [ht]; decide), if_pos ha]

theorem busRead_of_not_aligned (ht : touchesBlock s.cfg addr size = true) (ha : aligned32 addr size = false) :
    busRead addr size s = .next (s.withBus .error) := by
  rw [busRead, if_neg (by rw [ht]; decide), if_pos ha]

theorem busWrite_cmd (hw : s.cfg.wf = true) (hp : portExists s.cfg p = true) :
    busWrite (cmdAddr s.cfg p) 4 data s = issue p data (s.withBus .done) := by
  obtain ⟨ht, ha⟩ := reaches_window hw hp (.inl rfl)
  have hport : windowPort s.cfg (cmdAddr s.cfg p) = p := windowPort_cmdAddr_add (o := 0) (by decide)
  rw [Nat.add_zero] at ht ha
  rw [busWrite, ht, ha, if_neg (by decide), if_neg (by decide), if_pos (isCmdAddr_cmdAddr _ p), hport]

theorem busWrite_result (hw : s.cfg.wf = true) (hp : portExists s.cfg p = true) :
    busWrite (cmdAddr s.cfg p + 4) 4 data s = .next (s.withBus .done) := by
  obtain ⟨ht, ha⟩ := reaches_window hw hp (.inr rfl)
  rw [busWrite, ht, ha, isCmdAddr_result, if_neg (by decide), if_neg (by decide), if_neg (by decide)]

theorem busRead_cmd (hw : s.cfg.wf = true) (hp : portExists s.cfg p = true) :
    busRead (cmdAddr s.cfg p) 4 s = .next (s.withBus (.data 0#32)) := by
  obtain ⟨ht, ha⟩ := reaches_window hw hp (.inl rfl)
  rw [Nat.add_zero] at ht ha
  rw [busRead, ht, ha, if_neg (by decide), if_neg (by decide), if_pos (isCmdAddr_cmdAddr _ p)]

theorem busRead_result (hw : s.cfg.wf = true) (hp : portExists s.cfg p = true) :
    busRead (cmdAddr s.cfg p + 4) 4 s = .next (s.withBus (.data (resultAt s p))) := by
  obtain ⟨ht, ha⟩ := reaches_window hw hp (.inr rfl)
  rw [busRead, ht, ha, isCmdAddr_result, if_neg (by decide), if_neg (by decide), if_neg (by decide),
    windowPort_cmdAddr_add (by decide)]

/-- A write that answers a next state set the bus answer alone, or was an aligned one to a CMD register (R76). -/
theorem busWrite_next_cases (hw : s.cfg.wf = true) (h : busWrite addr size data s = .next t) :
    (∃ r, t = s.withBus r) ∨
      ∃ p, addr = cmdAddr s.cfg p ∧ size = 4 ∧ issue p data (s.withBus .done) = .next t := by
  unfold busWrite at h
  split at h
  next => cases h
  next ht =>
    split at h
    next =>
      cases h
      exact .inl ⟨_, rfl⟩
    next ha =>
      split at h
      next hcmd =>
        rw [Bool.not_eq_false] at ht ha
        exact .inr ⟨_, eq_cmdAddr_windowPort hw ht ha hcmd, (aligned32_eq_true_iff.1 ha).1, h⟩
      next =>
        cases h
        exact .inl ⟨_, rfl⟩

/-- Settles O51: such an access touches the block and fails the alignment check. -/
theorem misalignedAccessDoesNothing : Obligations.MisalignedAccessDoesNothing := by
  intro s addr size data rest hw hlow hhigh hsize hbad
  have ht : touchesBlock s.cfg addr size = true := touchesBlock_eq_true_iff.2 ⟨by omega, hhigh⟩
  have ha : aligned32 addr size = false := by
    rw [← Bool.not_eq_true, aligned32_eq_true_iff]
    omega
  exact ⟨fun hi => (step_of_inbox hw hi).trans (busWrite_of_not_aligned ht ha),
    fun hi => (step_of_inbox hw hi).trans (busRead_of_not_aligned ht ha)⟩

/-- Settles O52: the address of the statement is `cmdAddr`, whatever the port. -/
theorem busWindowsReachThePorts : Obligations.BusWindowsReachThePorts := by
  intro s p w hw hp n cmd
  have hcmd : cmd = cmdAddr s.cfg p := by cases p <;> rfl
  have hstep (x : Input) : step (s.withInbox [x]) = react x (s.withInbox []) :=
    step_of_inbox (s := s.withInbox [x]) hw rfl
  have hcommand : step ((s.withBus .done).withInbox [.command p w]) = issue p w ((s.withInbox []).withBus .done) :=
    step_of_inbox (s := (s.withBus .done).withInbox [.command p w]) hw rfl
  rw [hcmd, hcommand, hstep, hstep, hstep, hstep]
  exact ⟨busWrite_cmd (s := s.withInbox []) hw hp, busRead_cmd (s := s.withInbox []) hw hp,
    busRead_result (s := s.withInbox []) hw hp, busWrite_result (s := s.withInbox []) hw hp⟩

end Bus

/-! ### Steps whose input is not RESET (R72, R74, R76, R106, R109) -/

section Steps

variable {s t : State} {p : Port} {w : Word} {rest : List Input}

/-- The next input gives the word `w` to port `p`: from its agent, or by a bus write to its CMD register (R30, R76). -/
def Issues (s : State) (p : Port) (w : Word) : Prop :=
  s.inbox.head? = some (.command p w) ∨ s.inbox.head? = some (.busWrite (cmdAddr s.cfg p) 4 w)

/-- The step ran the command that the word given to the port decodes to. -/
def RunsCommand (s t : State) : Prop :=
  ∃ s1 w i, Taken s s1 ∧ Issues s s1.port w ∧ decode w = .ok i ∧ exec i s1 = .next t

/-- The step was an event, a bus access without effect on the units or an illegal word: no service port changed. -/
def LeavesServices (s t : State) : Prop := Reached s t ∧ t.svc = s.svc

theorem RunsCommand.reached (h : RunsCommand s t) : Reached s t := by
  obtain ⟨s1, _, _, htaken, -, -, hexec⟩ := h
  exact ⟨s1, htaken, .inr (exec_answered hexec)⟩

theorem Taken.withInbox (s : State) (rest : List Input) : Taken s (s.withInbox rest) :=
  ⟨rest, s.port, s.bus, rfl, id⟩

theorem LeavesServices.ring (h : RingEffect (s.withInbox rest) t) : LeavesServices s t :=
  ⟨⟨_, .withInbox s rest, .inl (.ring h)⟩, by rw [h.frame]; rfl⟩

theorem LeavesServices.scheduler (h : SchedulerEffect (s.withInbox rest) t) : LeavesServices s t :=
  ⟨⟨_, .withInbox s rest, .inl (.scheduler h)⟩, by rw [h.frame]; rfl⟩

theorem LeavesServices.bus (s : State) (rest : List Input) (r : BusResp) :
    LeavesServices s ((s.withInbox rest).withBus r) :=
  ⟨⟨_, ⟨rest, s.port, r, rfl, id⟩, .inl .none⟩, rfl⟩

/-- A word given to a port is run if it decodes, and answered RC_ILLEGAL if not (R106). -/
theorem cases_of_issue {r : BusResp} (hi : Issues s p w) (h : issue p w ((s.withInbox rest).withBus r) = .next t) :
    RunsCommand s t ∨ LeavesServices s t := by
  obtain ⟨hp, hrun⟩ := issue_next h
  have htaken : Taken s (((s.withInbox rest).withBus r).withPort p) := ⟨rest, p, r, rfl, fun _ => hp⟩
  obtain ⟨i, hd, hexec⟩ | rfl := hrun
  · exact .inl ⟨_, w, i, htaken, hi, hd, hexec⟩
  · exact .inr ⟨⟨_, htaken, .inr .fail⟩, rfl⟩

/-- What a step that is not RESET did. -/
theorem step_of_not_reset (h : step s = .next t) (hx : s.inbox.head? ≠ some .reset) :
    RunsCommand s t ∨ LeavesServices s t := by
  obtain ⟨hw, ⟨-, rfl⟩ | ⟨x, rest, hi, hreact⟩⟩ := step_next_cases h
  · exact .inr ⟨.effect .none, rfl⟩
  have hhead : s.inbox.head? = some x := by rw [hi, List.head?_cons]
  cases x with
  | command p w => exact cases_of_issue (rest := rest) (r := s.bus) (.inl hhead) hreact
  | busWrite addr size data =>
    obtain ⟨r, rfl⟩ | ⟨p, rfl, rfl, hissue⟩ := busWrite_next_cases (s := s.withInbox rest) hw hreact
    · exact .inr (.bus s rest r)
    · exact cases_of_issue (.inr hhead) hissue
  | busRead addr size =>
    obtain ⟨r, rfl⟩ := busRead_next hreact
    exact .inr (.bus s rest r)
  | tick =>
    obtain ⟨hen, rfl⟩ := ifEnabled_next hreact
    exact .inr (.scheduler (.tick (Bool.and_eq_true_iff.1 hen).1))
  | tmrClk =>
    obtain ⟨hen, rfl⟩ := ifEnabled_next hreact
    exact .inr (.scheduler (.clock hen))
  | syncP k v =>
    obtain ⟨hen, rfl⟩ := ifEnabled_next hreact
    exact .inr (.ring (.syncP hen))
  | syncC k v =>
    obtain ⟨hen, rfl⟩ := ifEnabled_next hreact
    exact .inr (.ring (.syncC hen))
  | reset => exact absurd hhead hx

/-- Settles O13: a step that is not RESET has at most one effect, which is a queue step on every ring. -/
theorem everyStepIsAQueueStep : Obligations.EveryStepIsAQueueStep := fun _ _ k hinv _ hx hstep =>
  have hreached := (step_of_not_reset hstep hx).elim RunsCommand.reached And.left
  hreached.queueStep hinv k

end Steps

/-! ### What each command can change, and on which port (R70, R81, R105, R106, R277) -/

section Commands

/-- What a command does to the units before it answers, with the port that may issue it and, for the service table,
the checks of its rule; the scheduler's and the timer's new values are left open. -/
inductive CommandEffect (s : State) : Instr → State → Prop
  | none {i : Instr} : CommandEffect s i s
  | push {k : BitVec 8} {d : BitVec 16} : s.port = .producer k.toNat →
      CommandEffect s (.rbPush k d) (ringPush k.toNat d s)
  | pop {k : BitVec 8} : s.port = .consumer k.toNat → CommandEffect s (.rbPop k) (ringPop k.toNat s)
  | receive {b : BitVec 8} : s.port = .transport → CommandEffect s (.fvRx b) (fvReceive b s)
  | transfer : s.port = .transport → CommandEffect s .fvXfer (fvTransfer s)
  | register {a n : BitVec 8} {i : Nat} : s.port = .host → svcIndex s.cfg a = some i → (svcAt s i).reg = false →
      CommandEffect s (.svcReg a n)
        (setSvc i ⟨true, n, false, s.cfg.ws.unknown, List.replicate (s.cfg.maxLen.toNat - 1) 0#8⟩ s)
  | delete {a : BitVec 8} {i : Nat} : s.port = .host → svcIndex s.cfg a = some i →
      CommandEffect s (.svcDel a) (setSvc i { svcAt s i with reg := false, plen := 0#8, pending := false } s)
  | done {a v : BitVec 8} {i : Nat} : s.port = .host → svcIndex s.cfg a = some i →
      CommandEffect s (.svcDone a v) (setSvc i { svcAt s i with resp := v, pending := false } s)
  | scan (ssp : BitVec 5) : s.port = .host → CommandEffect s .svcNext (s.withSsp ssp)
  | schAdd {d p : BitVec 12} (sch : Sched) : s.port = .host → CommandEffect s (.schAdd d p) (s.withSch sch)
  | schDel {h : BitVec 8} (sch : Sched) : s.port = .host → CommandEffect s (.schDel h) (s.withSch sch)
  | schNext (sch : Sched) : s.port = .host → CommandEffect s .schNext (s.withSch sch)
  | schDone {h : BitVec 8} (sch : Sched) : s.port = .host → CommandEffect s (.schDone h) (s.withSch sch)
  | timer {n : BitVec 8} {v : BitVec 16} (tmr : Timer) : s.port = .host →
      CommandEffect s (.csrWrite n v) (s.withTmr tmr)

variable {s t u : State} {i : Instr}

/-- `t` is `s` after one effect of the command `i` and one answer. -/
def Ran (i : Instr) (s t : State) : Prop := ∃ u rc data, CommandEffect s i u ∧ t = respond rc data u

theorem Ran.of {rc : ResultCode} {data : Half} (h : CommandEffect s i u) : Ran i s (respond rc data u) :=
  ⟨u, rc, data, h, rfl⟩

theorem Ran.fail {rc : ResultCode} : Ran i s (fail rc s) := .of .none

theorem Ran.ite {b : Prop} [Decidable b] (ht : b → Ran i s t) (hu : ¬ b → Ran i s u) :
    Ran i s (if b then t else u) := by
  split
  next hb => exact ht hb
  next hb => exact hu hb

theorem Ran.ifLegal {b : Bool} (ht : b = true → Ran i s t) (h : ifLegal b s t = .next u) : Ran i s u := by
  obtain ⟨hb, rfl⟩ | ⟨-, rfl⟩ := ifLegal_next h
  · exact ht hb
  · exact .fail

theorem Ran.withSvcPort {a : Byte} {act : Nat → State} (h : ∀ j, svcIndex s.cfg a = some j → Ran i s (act j)) :
    Ran i s (withSvcPort a s act) := by
  obtain ⟨-, e⟩ | ⟨j, -, hj, e⟩ := withSvcPort_cases a s act
  · exact e ▸ .fail
  · exact e ▸ h j hj

/-! What a received byte and a start or stop condition leave alone. -/

theorem fvReceive_cfg (b : Byte) (s : State) : (fvReceive b s).cfg = s.cfg := by
  rw [(ParserEffect.receive b).frame, withFv_cfg, withSvc_cfg]

theorem fvReceive_rb (b : Byte) (s : State) : (fvReceive b s).rb = s.rb := by
  rw [(ParserEffect.receive b).frame, withFv_rb, withSvc_rb]

theorem fvReceive_ssp (b : Byte) (s : State) : (fvReceive b s).ssp = s.ssp := by
  rw [(ParserEffect.receive b).frame, withFv_ssp, withSvc_ssp]

theorem fvReceive_sch (b : Byte) (s : State) : (fvReceive b s).sch = s.sch := by
  rw [(ParserEffect.receive b).frame, withFv_sch, withSvc_sch]

theorem fvReceive_tmr (b : Byte) (s : State) : (fvReceive b s).tmr = s.tmr := by
  rw [(ParserEffect.receive b).frame, withFv_tmr, withSvc_tmr]

theorem fvTransfer_cfg (s : State) : (fvTransfer s).cfg = s.cfg := by
  rw [(fvTransfer_keepsBuffer s).1, withFv_cfg]

theorem fvTransfer_rb (s : State) : (fvTransfer s).rb = s.rb := by
  rw [(fvTransfer_keepsBuffer s).1, withFv_rb]

theorem fvTransfer_svc (s : State) : (fvTransfer s).svc = s.svc := by
  rw [(fvTransfer_keepsBuffer s).1, withFv_svc]

theorem fvTransfer_ssp (s : State) : (fvTransfer s).ssp = s.ssp := by
  rw [(fvTransfer_keepsBuffer s).1, withFv_ssp]

theorem fvTransfer_sch (s : State) : (fvTransfer s).sch = s.sch := by
  rw [(fvTransfer_keepsBuffer s).1, withFv_sch]

theorem fvTransfer_tmr (s : State) : (fvTransfer s).tmr = s.tmr := by
  rw [(fvTransfer_keepsBuffer s).1, withFv_tmr]

theorem finish_eq (j : Nat) (s : State) : ∃ sch, finish j s = s.withSch sch := by
  by_cases hp : (slotAt s j).period = 0#12
  · exact ⟨_, finish_of_oneShot hp⟩
  · exact ⟨_, finish_of_periodic hp⟩

/-- Every command has at most its own effect, only on a port where it is legal, and answers. -/
theorem exec_ran (h : exec i s = .next t) : Ran i s t := by
  cases i with refine .ifLegal (fun hlegal => ?_) h
  | rbPush k d => exact .ite (fun _ => .fail) fun _ => .of (.push (onProducer_eq_true_iff.1 hlegal).2)
  | rbPop k => exact .ite (fun _ => .fail) fun _ => .of (.pop (onConsumer_eq_true_iff.1 hlegal).2)
  | rbLen k => exact .of .none
  | fvRx b => exact .of (.receive (onTransport_eq_true_iff.1 hlegal))
  | fvTx => exact .of .none
  | fvXfer => exact .of (.transfer (onTransport_eq_true_iff.1 hlegal))
  | svcReg a n =>
    have hp := onHost_eq_true_iff.1 hlegal
    exact .withSvcPort fun j hj => .ite (fun _ => .fail) fun hreg => .ite (fun _ => .fail) fun _ =>
      .of (.register hp hj (Bool.eq_false_of_not_eq_true hreg))
  | svcDel a => exact .withSvcPort fun j hj => .of (.delete (onHost_eq_true_iff.1 hlegal) hj)
  | svcIsreg a => exact .withSvcPort fun _ _ => .of .none
  | svcPlen a => exact .withSvcPort fun _ _ => .of .none
  | svcNext =>
    have hp := onHost_eq_true_iff.1 hlegal
    split
    · exact .of (.scan _ hp)
    · exact .of (.scan _ hp)
  | svcRdparam a j =>
    exact .withSvcPort fun _ _ => .ite (fun _ => .fail) fun _ => .ite (fun _ => .fail) fun _ => .of .none
  | svcDone a v =>
    exact .withSvcPort fun j hj => .ite (fun _ => .fail) fun _ => .of (.done (onHost_eq_true_iff.1 hlegal) hj)
  | svcResp a => exact .withSvcPort fun _ _ => .of .none
  | schAdd d p =>
    have hp := (onHostWithSched_eq_true_iff.1 hlegal).1
    refine .ite (fun _ => .fail) fun _ => ?_
    split
    · exact .fail
    · exact .of (.schAdd _ hp)
  | schDel j =>
    have hp := (onHostWithSched_eq_true_iff.1 hlegal).1
    exact .ite (fun _ => .fail) fun _ => .ite (fun _ => .fail) fun _ => .of (.schDel _ hp)
  | schNext =>
    have hp := (onHostWithSched_eq_true_iff.1 hlegal).1
    refine .ite (fun _ => .fail) fun _ => ?_
    split
    · exact .of (.schNext _ hp)
    · exact .of (.schNext _ hp)
  | schDone j =>
    have hp := (onHostWithSched_eq_true_iff.1 hlegal).1
    obtain ⟨sch, e⟩ := finish_eq j.toNat s
    exact .ite (fun _ => .fail) fun _ => .ite (fun _ => .fail) fun _ => e ▸ .of (.schDone sch hp)
  | schRdslot j sel => exact .ite (fun _ => .fail) fun _ => .of .none
  | csrRead n =>
    split
    · exact .fail
    · exact .of .none
  | csrWrite n v =>
    have hp := onHost_eq_true_iff.1 hlegal
    exact .ite (fun _ => .of (.timer _ hp)) fun _ => .ite (fun _ => .of (.timer _ hp)) fun _ => .fail

/-! A push leaves every `tail` alone, and a pop every `head` (R131, R132). -/

theorem ringPush_tail (j : Nat) (d : Half) (k : Nat) (s : State) :
    (ringAt (ringPush j d s) k).tail = (ringAt s k).tail := ringAt_setRing_field Ring.tail (by rfl) k

theorem ringPop_head (j k : Nat) (s : State) : (ringAt (ringPop j s) k).head = (ringAt s k).head :=
  ringAt_setRing_field Ring.head (by rfl) k

/-! For each field of the state, which commands change it, and on which port. -/

namespace CommandEffect

theorem frame (h : CommandEffect s i u) :
    u.cfg = s.cfg ∧ u.inbox = s.inbox ∧ u.port = s.port ∧ u.bus = s.bus ∧ u.epoch = s.epoch := by
  cases h with
  | @receive b =>
    rw [(ParserEffect.receive b).frame]
    exact ⟨rfl, rfl, rfl, rfl, rfl⟩
  | transfer =>
    rw [(fvTransfer_keepsBuffer s).1]
    exact ⟨rfl, rfl, rfl, rfl, rfl⟩
  | _ => exact ⟨rfl, rfl, rfl, rfl, rfl⟩

theorem port (h : CommandEffect s i u) : u.port = s.port := by
  obtain ⟨-, -, hport, -⟩ := h.frame
  exact hport

theorem rb (h : CommandEffect s i u) (hne : u.rb ≠ s.rb) : (∃ a d, i = .rbPush a d) ∨ ∃ a, i = .rbPop a := by
  cases h with
  | push => exact .inl ⟨_, _, rfl⟩
  | pop => exact .inr ⟨_, rfl⟩
  | receive => exact absurd (fvReceive_rb _ s) hne
  | transfer => exact absurd (fvTransfer_rb s) hne
  | _ => exact absurd rfl hne

/-- `head` of ring k is PRODUCER(k)'s (R70). -/
theorem head {k : Nat} (h : CommandEffect s i u) (hne : (ringAt u k).head ≠ (ringAt s k).head) :
    s.port = .producer k ∧ ∃ a d, i = .rbPush a d := by
  obtain ⟨a, d, rfl⟩ | ⟨a, rfl⟩ := h.rb fun e => hne (congrArg Ring.head (ringAt_congr e k))
  · refine ⟨?_, a, d, rfl⟩
    cases h with
    | none => exact absurd rfl hne
    | push hp =>
      by_cases hk : k = a.toNat
      · rw [hp, hk]
      · exact absurd (congrArg Ring.head (ringAt_setRing_of_ne _ hk)) hne
  · cases h with
    | none => exact absurd rfl hne
    | pop => exact absurd (ringPop_head _ k s) hne

/-- `tail` of ring k is CONSUMER(k)'s (R70). -/
theorem tail {k : Nat} (h : CommandEffect s i u) (hne : (ringAt u k).tail ≠ (ringAt s k).tail) :
    s.port = .consumer k ∧ ∃ a, i = .rbPop a := by
  obtain ⟨a, d, rfl⟩ | ⟨a, rfl⟩ := h.rb fun e => hne (congrArg Ring.tail (ringAt_congr e k))
  · cases h with
    | none => exact absurd rfl hne
    | push => exact absurd (ringPush_tail _ _ k s) hne
  · refine ⟨?_, a, rfl⟩
    cases h with
    | none => exact absurd rfl hne
    | pop hp =>
      by_cases hk : k = a.toNat
      · rw [hp, hk]
      · exact absurd (congrArg Ring.tail (ringAt_setRing_of_ne _ hk)) hne

theorem fv (h : CommandEffect s i u) (hne : u.fv ≠ s.fv) :
    s.port = .transport ∧ ((∃ b, i = .fvRx b) ∨ i = .fvXfer) := by
  cases h with
  | receive hp => exact ⟨hp, .inl ⟨_, rfl⟩⟩
  | transfer hp => exact ⟨hp, .inr rfl⟩
  | _ => exact absurd rfl hne

theorem svc (h : CommandEffect s i u) (hne : u.svc ≠ s.svc) :
    (s.port = .transport ∧ ∃ b, i = .fvRx b) ∨
      (s.port = .host ∧ ((∃ a n, i = .svcReg a n) ∨ (∃ a, i = .svcDel a) ∨ ∃ a v, i = .svcDone a v)) := by
  cases h with
  | receive hp => exact .inl ⟨hp, _, rfl⟩
  | transfer => exact absurd (fvTransfer_svc s) hne
  | register hp => exact .inr ⟨hp, .inl ⟨_, _, rfl⟩⟩
  | delete hp => exact .inr ⟨hp, .inr (.inl ⟨_, rfl⟩)⟩
  | done hp => exact .inr ⟨hp, .inr (.inr ⟨_, _, rfl⟩)⟩
  | _ => exact absurd rfl hne

theorem ssp (h : CommandEffect s i u) (hne : u.ssp ≠ s.ssp) : s.port = .host ∧ i = .svcNext := by
  cases h with
  | scan _ hp => exact ⟨hp, rfl⟩
  | receive => exact absurd (fvReceive_ssp _ s) hne
  | transfer => exact absurd (fvTransfer_ssp s) hne
  | _ => exact absurd rfl hne

theorem sch (h : CommandEffect s i u) (hne : u.sch ≠ s.sch) :
    s.port = .host ∧ ((∃ d p, i = .schAdd d p) ∨ (∃ j, i = .schDel j) ∨ i = .schNext ∨ ∃ j, i = .schDone j) := by
  cases h with
  | schAdd _ hp => exact ⟨hp, .inl ⟨_, _, rfl⟩⟩
  | schDel _ hp => exact ⟨hp, .inr (.inl ⟨_, rfl⟩)⟩
  | schNext _ hp => exact ⟨hp, .inr (.inr (.inl rfl))⟩
  | schDone _ hp => exact ⟨hp, .inr (.inr (.inr ⟨_, rfl⟩))⟩
  | receive => exact absurd (fvReceive_sch _ s) hne
  | transfer => exact absurd (fvTransfer_sch s) hne
  | _ => exact absurd rfl hne

theorem tmr (h : CommandEffect s i u) (hne : u.tmr ≠ s.tmr) : s.port = .host ∧ ∃ n v, i = .csrWrite n v := by
  cases h with
  | timer _ hp => exact ⟨hp, _, _, rfl⟩
  | receive => exact absurd (fvReceive_tmr _ s) hne
  | transfer => exact absurd (fvTransfer_tmr s) hne
  | _ => exact absurd rfl hne

end CommandEffect

/-- Settles O8: an answer changes none of these fields, and the effect before it is the command's own. -/
theorem commandsStayInTheirUnit : Obligations.CommandsStayInTheirUnit := by
  intro i s t hexec
  obtain ⟨u, rc, data, h, rfl⟩ := exec_ran hexec
  exact ⟨h.frame, fun _ => h.head, fun _ => h.tail, h.rb, h.fv, h.svc, h.ssp, h.sch, h.tmr⟩

/-- No command aborts or is refused: `exec` answers a next state in every state (R104, R105, R270). -/
theorem exec_completes (i : Instr) (s : State) : ∃ t, exec i s = .next t := by
  cases i <;> exact ⟨_, rfl⟩

theorem issue_completes {p : Port} (w : Word) (hp : portExists s.cfg p = true) :
    ∃ t, issue p w s = .next t ∧ t.inbox = s.inbox ∧ t.port = p := by
  cases hd : decode w with
  | error e => exact ⟨_, issue_of_error hp hd, rfl, rfl⟩
  | ok i =>
    obtain ⟨t, hexec⟩ := exec_completes i (s.withPort p)
    obtain ⟨u, rc, data, h, rfl⟩ := exec_ran hexec
    obtain ⟨-, hinbox, hport, -⟩ := h.frame
    exact ⟨_, (issue_of_decode hp hd).trans hexec, hinbox, hport⟩

/-- Settles O7: the step is `issue`, which completes on every existing port. -/
theorem everyCommandCompletes : Obligations.EveryCommandCompletes := by
  intro s p w rest hw hi hp
  rw [step_of_inbox hw hi]
  exact issue_completes (s := s.withInbox rest) w hp

end Commands

/-! ### The busy guard (R81, R82, R188, R220) -/

section Guard

variable {s t u : State} {i : Nat} {c : Instr}

/-- Service port `i` is pending in `t` and holds the parameters it has in `s`. -/
def KeepsPending (i : Nat) (s t : State) : Prop :=
  (svcAt t i).pending = true ∧ (svcAt t i).param = (svcAt s i).param ∧ (svcAt t i).plen = (svcAt s i).plen

theorem KeepsPending.of_svcAt (hpending : (svcAt s i).pending = true) (h : svcAt t i = svcAt s i) :
    KeepsPending i s t := by
  rw [KeepsPending, h]
  exact ⟨hpending, rfl, rfl⟩

/-- A checksum byte changes the service table only by a commit to a port that is not pending (R220). -/
theorem rxChecksum_svc_cases (b : Byte) (s : State) :
    (rxChecksum b s).svc = s.svc ∨
      (svcAt s s.fv.pidx.toNat).pending = false ∧ (rxChecksum b s).svc = (committed s).svc := by
  unfold rxChecksum fvCommit
  dsimp only
  split
  · exact .inl rfl
  · split
    · exact .inl rfl
    · split
      · exact .inl rfl
      · split
        · exact .inl rfl
        next hfree => exact .inr ⟨Bool.eq_false_of_not_eq_true hfree, rfl⟩

theorem KeepsBuffer.svc (h : KeepsBuffer s t) : t.svc = s.svc := by
  rw [h.1, withFv_svc]

theorem fvReceive_svc_cases (b : Byte) (s : State) :
    (fvReceive b s).svc = s.svc ∨
      (svcAt s s.fv.pidx.toNat).pending = false ∧ (fvReceive b s).svc = (committed s).svc := by
  unfold fvReceive
  split
  · exact .inl (rxHeader_keepsBuffer b s).svc
  · exact .inl (rxHeader_keepsBuffer b s).svc
  · exact .inl (rxHeader_keepsBuffer b s).svc
  · exact .inl (rxLength_keepsBuffer b s).svc
  · exact .inl (rxPort_keepsBuffer b s).svc
  · exact .inl rfl
  · exact rxChecksum_svc_cases b s
  · exact .inl rfl

/-- No received byte touches a pending port: a frame for it is answered WS_BUSY (R82, R220). -/
theorem svcAt_fvReceive_of_pending (b : Byte) (hidx : s.fv.pidx.toNat < s.svc.length)
    (hpending : (svcAt s i).pending = true) : svcAt (fvReceive b s) i = svcAt s i := by
  obtain hsvc | ⟨hfree, hsvc⟩ := fvReceive_svc_cases b s
  · exact svcAt_congr (fvReceive_cfg b s) hsvc i
  · have hne : i ≠ s.fv.pidx.toNat := fun e => by
      rw [e, hfree] at hpending
      cases hpending
    calc svcAt (fvReceive b s) i = svcAt (committed s) i := svcAt_congr (s := committed s) (fvReceive_cfg b s) hsvc i
      _ = svcAt s i := (svcAt_setSvc _ i hidx).trans (if_neg hne)

/-- A command on another service port leaves port `i`. -/
theorem KeepsPending.setSvc_of_ne {j : Nat} {p : SvcPort} (hj : j < s.svc.length) (hne : i ≠ j)
    (hpending : (svcAt s i).pending = true) : KeepsPending i s (setSvc j p s) :=
  .of_svcAt hpending ((svcAt_setSvc p i hj).trans (if_neg hne))

/-- A command keeps a pending port's bit and parameters, or is the host's SVC_DEL or SVC_DONE of it. -/
theorem CommandEffect.keepsPending (h : CommandEffect s c u) (hshape : Shaped s) (hservices : ServicesOk s)
    (hidx : s.fv.pidx.toNat < s.cfg.portCount) (hi : i < s.cfg.portCount) (hpending : (svcAt s i).pending = true) :
    KeepsPending i s u ∨
      (s.port = .host ∧ ∃ a : Byte, a.toNat = s.cfg.portBase.toNat + i ∧
        (c = .svcDel a ∨ ∃ v, c = .svcDone a v)) := by
  obtain ⟨-, hlen, -⟩ := hshape
  have hentry {a : Byte} {j : Nat} (hj : svcIndex s.cfg a = some j) : j < s.svc.length := hlen ▸ svcIndex_lt hj
  have haddr {a : Byte} (hj : svcIndex s.cfg a = some i) : a.toNat = s.cfg.portBase.toNat + i := by
    have := svcIndex_eq_some_iff.1 hj
    omega
  cases h with
  | receive => exact .inl (.of_svcAt hpending (svcAt_fvReceive_of_pending _ (hlen ▸ hidx) hpending))
  | transfer => exact .inl (.of_svcAt hpending (svcAt_congr (fvTransfer_cfg s) (fvTransfer_svc s) i))
  | @register a n j hp hj hfree =>
    refine .inl (.setSvc_of_ne (hentry hj) (fun e => ?_) hpending)
    have hreg := (hservices.2 i hi).1 hpending
    rw [e, hfree] at hreg
    cases hreg
  | @delete a j hp hj =>
    by_cases hij : i = j
    · subst hij
      exact .inr ⟨hp, a, haddr hj, .inl rfl⟩
    · exact .inl (.setSvc_of_ne (hentry hj) hij hpending)
  | @done a v j hp hj =>
    by_cases hij : i = j
    · subst hij
      exact .inr ⟨hp, a, haddr hj, .inr ⟨v, rfl⟩⟩
    · exact .inl (.setSvc_of_ne (hentry hj) hij hpending)
  | _ => exact .inl (.of_svcAt hpending rfl)

theorem Taken.svcAt (h : Taken s u) (i : Nat) : svcAt u i = svcAt s i := by
  obtain ⟨_, _, _, rfl, _⟩ := h
  rfl

/-- Settles O23: by `step_of_not_reset` the step ran a command, which `CommandEffect.keepsPending` covers, or it left
the service table alone. -/
theorem pendingPortIsGuarded : Obligations.PendingPortIsGuarded := by
  intro s t i hinv hi hpending hstep hx
  obtain ⟨s1, w, c, htaken, hissues, hdecode, hexec⟩ | ⟨-, hsvc⟩ := step_of_not_reset hstep hx
  · obtain ⟨u, rc, data, heffect, rfl⟩ := exec_ran hexec
    obtain ⟨_, hshape, _, _, _, hservices, ⟨_, hidx, _⟩, _⟩ := htaken.inv hinv
    have hsame := htaken.svcAt i
    rw [← hsame] at hpending ⊢
    obtain hkept | ⟨hhost, a, ha, hc⟩ :=
      heffect.keepsPending hshape hservices hidx (htaken.cfg ▸ hi) hpending
    · exact .inl hkept
    · rw [htaken.cfg] at ha
      rw [hhost] at hissues
      refine .inr ⟨heffect.port.trans hhost, a, w, ha, ?_, hissues⟩
      obtain rfl | ⟨v, rfl⟩ := hc
      · exact .inl hdecode
      · exact .inr ⟨v, hdecode⟩
  · exact .inl (KeepsPending.of_svcAt hpending (svcAt_congr (step_cfg hstep) hsvc i))

end Guard

/-! ### The parser's lengths, counters and port indexes (R71, R215 to R217) -/

section ParserInvariants

variable {s u : State} {b : Byte}

/-- Outside a frame only the port indexes are bound. -/
theorem parserOk_of_outside (hq : s.fv.qport.toNat < s.cfg.portCount) (hi : s.fv.pidx.toNat < s.cfg.portCount)
    (hst : midFrame s.fv.st = false) : ParserOk s := by
  have hmid : midFrame s.fv.st ≠ true := Bool.eq_false_iff.1 hst
  have hdata : s.fv.st ≠ .data := fun e => hmid (e ▸ rfl)
  have hsum : s.fv.st ≠ .checksum := fun e => hmid (e ▸ rfl)
  exact ⟨hq, hi, fun h => absurd h hmid, fun h => absurd h hdata, fun h => absurd h hsum,
    fun h => absurd h (not_or.2 ⟨hdata, hsum⟩)⟩

/-- A port index fits the parser's four bits: PORT_COUNT is at most 16 (R7). -/
theorem toNat_svcIndex {c : Cfg} {a : Byte} {i : Nat} (hw : c.wf = true) (h : svcIndex c a = some i) :
    (BitVec.ofNat 4 i).toNat = i := by
  have := svcIndex_lt h
  have := portCount_le hw
  rw [BitVec.toNat_ofNat]
  omega

theorem parserOk_rxHeader (hw : s.cfg.wf = true) (h : ParserOk s) : ParserOk (rxHeader b s) := by
  obtain ⟨hq, hi, -⟩ := h
  unfold rxHeader
  split
  · exact parserOk_of_outside hq hi rfl
  · split
    · exact parserOk_of_outside hq hi rfl
    · split
      next i hidx =>
        have hquery : (BitVec.ofNat 4 i).toNat < s.cfg.portCount := (toNat_svcIndex hw hidx).symm ▸ svcIndex_lt hidx
        split
        · exact parserOk_of_outside hquery hi rfl
        · exact parserOk_of_outside hq hi rfl
      next => exact parserOk_of_outside hq hi rfl

theorem parserOk_rxLength (h : ParserOk s) : ParserOk (rxLength b s) := by
  obtain ⟨hq, hi, -⟩ := h
  unfold rxLength
  dsimp only
  split
  next => exact parserOk_of_outside hq hi rfl
  next hlegal =>
    obtain ⟨hzero, hlen⟩ := not_or.1 hlegal
    have hpos : 1 ≤ b.toNat := Nat.pos_of_ne_zero fun e => hzero (BitVec.eq_of_toNat_eq e)
    exact ⟨hq, hi, fun _ => ⟨hpos, Nat.le_of_not_lt hlen⟩, nofun, nofun, nofun⟩

/-- No data byte is expected exactly with Length 1 (R216). -/
theorem parserOk_rxPort (hw : s.cfg.wf = true) (hst : s.fv.st = .port) (h : ParserOk s) : ParserOk (rxPort b s) := by
  obtain ⟨hq, hi, hmid, -⟩ := h
  have hlen := hmid (hst ▸ rfl)
  unfold rxPort
  dsimp only
  split
  next => exact parserOk_of_outside hq hi rfl
  next i hidx =>
    split
    · exact parserOk_of_outside hq hi rfl
    · split
      · exact parserOk_of_outside hq hi rfl
      · have hport : (BitVec.ofNat 4 i).toNat < s.cfg.portCount := (toNat_svcIndex hw hidx).symm ▸ svcIndex_lt hidx
        by_cases hone : s.fv.len = 1#8
        · rw [if_pos hone]
          refine ⟨hq, hport, fun _ => hlen, nofun, fun _ => ?_, fun _ j hj => absurd hj j.not_lt_zero⟩
          change 0 = s.fv.len.toNat - 1
          rw [hone]
          rfl
        · rw [if_neg hone]
          refine ⟨hq, hport, fun _ => hlen, fun _ => ?_, nofun, fun _ j hj => absurd hj j.not_lt_zero⟩
          have : s.fv.len.toNat ≠ 1 := fun e => hone (BitVec.eq_of_toNat_eq e)
          change 0 < s.fv.len.toNat - 1
          omega

/-- The byte is stored and counted; the count reaches `len - 1` exactly when the parser moves on (R217). -/
theorem parserOk_rxData (hst : s.fv.st = .data) (h : ParserOk s) : ParserOk (rxData b s) := by
  obtain ⟨hq, hi, hmid, hdata, -, hbytes⟩ := h
  have hlen := hmid (hst ▸ rfl)
  have hcnt := hdata hst
  have hlt := s.fv.len.isLt
  have hnew : (s.fv.cnt + 1#8).toNat = s.fv.cnt.toNat + 1 := by
    rw [BitVec.toNat_add]
    exact Nat.mod_eq_of_lt (by simp only [BitVec.toNat_ofNat]; omega)
  have hlast : s.fv.cnt + 1#8 = s.fv.len - 1#8 ↔ s.fv.cnt.toNat + 1 = s.fv.len.toNat - 1 := by
    rw [← BitVec.toNat_inj, hnew, BitVec.toNat_sub_of_le (by rw [BitVec.le_def]; exact hlen.1)]
    rfl
  have hstored : ∀ j < (s.fv.cnt + 1#8).toNat,
      (storeGet (storeSet s.fv.fbuf s.fv.cnt.toNat b) j).isSome = true := by
    intro j hj
    refine storeGet_isSome_storeSet b ?_
    rw [hnew] at hj
    exact (Nat.lt_succ_iff_lt_or_eq.1 hj).symm.imp_right (hbytes (.inl hst) j)
  unfold rxData
  dsimp only
  by_cases hdone : s.fv.cnt + 1#8 = s.fv.len - 1#8
  · rw [if_pos hdone]
    exact ⟨hq, hi, fun _ => hlen, nofun, fun _ => hnew.trans (hlast.1 hdone), fun _ => hstored⟩
  · rw [if_neg hdone, hst]
    refine ⟨hq, hi, fun _ => hlen, fun _ => ?_, nofun, fun _ => hstored⟩
    have hmore := hlast.not.1 hdone
    change (s.fv.cnt + 1#8).toNat < s.fv.len.toNat - 1
    omega

theorem parserOk_rxChecksum (h : ParserOk s) : ParserOk (rxChecksum b s) := by
  obtain ⟨hq, hi, -⟩ := h
  unfold rxChecksum fvCommit
  dsimp only
  split
  · exact parserOk_of_outside hq hi rfl
  · split
    · exact parserOk_of_outside hq hi rfl
    · split
      · exact parserOk_of_outside hq hi rfl
      · split <;> exact parserOk_of_outside hq hi rfl

theorem parserOk_fvReceive (hw : s.cfg.wf = true) (h : ParserOk s) : ParserOk (fvReceive b s) := by
  unfold fvReceive
  split
  · exact parserOk_rxHeader hw h
  · exact parserOk_rxHeader hw h
  · exact parserOk_rxHeader hw h
  · exact parserOk_rxLength h
  next hst => exact parserOk_rxPort hw hst h
  next hst => exact parserOk_rxData hst h
  · exact parserOk_rxChecksum h
  · exact h

theorem parserOk_fvTransfer (h : ParserOk s) : ParserOk (fvTransfer s) := by
  have ⟨hq, hi, _⟩ := h
  unfold fvTransfer
  split
  · exact parserOk_of_outside hq hi rfl
  · exact parserOk_of_outside hq hi rfl
  · exact parserOk_of_outside hq hi rfl
  · exact parserOk_of_outside hq hi rfl
  · exact parserOk_of_outside hq hi rfl
  · exact h
  · exact h
  · exact h

theorem Effect.parserOk (h : Effect s u) (hw : s.cfg.wf = true) (hs : ParserOk s) : ParserOk u := by
  cases h with
  | none => exact hs
  | ring h =>
    rw [h.frame]
    exact hs
  | service h =>
    rw [h.frame]
    exact hs
  | parser h =>
    cases h with
    | receive b => exact parserOk_fvReceive hw hs
    | transfer => exact parserOk_fvTransfer hs
  | scheduler h =>
    rw [h.frame]
    exact hs

theorem parserOk_resetOf {c : Cfg} (hw : c.wf = true) : ParserOk (State.resetOf c) := by
  obtain ⟨-, -, -, hports, -⟩ := cfg_wf_iff.1 hw
  have hpos := (portsOk_iff.1 hports).1
  exact parserOk_of_outside hpos hpos rfl

/-- Settles O58: the received byte is the only effect inside a frame, and each parser state's rule keeps the bounds. -/
theorem stepKeepsParserInvariants : Obligations.StepKeepsParserInvariants := fun _ _ hinv hstep =>
  step_establishes (Q := ParserOk) (fun _ hw => parserOk_resetOf hw)
    (fun ⟨hw, _, _, _, _, _, hparser, _⟩ heffect => heffect.parserOk hw hparser) id hinv hstep

end ParserInvariants

end Sys2Proof.Machine

/-! ## The command words, the opcode table, and how a command is taken or turned away (R100 to R107)

Settled here: O1, O3, O2, O4, O5 and O6. The opcode table and the encoder speak of the same words: a word matches a row
exactly when it is the encoding of a command with that row's mnemonic. So O2 follows from O1. -/

namespace Sys2Proof

/-! ### The fields of a word (R100)

A word of either format is four fields side by side; the lemmas about four fields are for every width. -/

section FourFields

variable {k l m n : Nat} (x : BitVec k) (y : BitVec l) (z : BitVec m) (t : BitVec n)

theorem extractLsb'_field_one : (x ++ y ++ z ++ t).extractLsb' (l + m + n) k = x := by
  rw [BitVec.extractLsb'_append_eq_of_le (by omega), Nat.add_sub_cancel,
    BitVec.extractLsb'_append_eq_of_le (by omega), Nat.add_sub_cancel, BitVec.extractLsb'_append_eq_left]

theorem extractLsb'_field_two : (x ++ y ++ z ++ t).extractLsb' (m + n) l = y := by
  rw [BitVec.extractLsb'_append_eq_of_le (by omega), Nat.add_sub_cancel,
    BitVec.extractLsb'_append_eq_of_le le_rfl, Nat.sub_self, BitVec.extractLsb'_append_eq_right]

theorem extractLsb'_field_three : (x ++ y ++ z ++ t).extractLsb' n m = z := by
  rw [BitVec.extractLsb'_append_eq_of_le le_rfl, Nat.sub_self, BitVec.extractLsb'_append_eq_right]

theorem append_four_fields (w : BitVec (k + l + m + n)) :
    w.extractLsb' (l + m + n) k ++ w.extractLsb' (m + n) l ++ w.extractLsb' n m ++ w.extractLsb' 0 n = w := by
  rw [BitVec.extractLsb'_append_extractLsb'_eq_extractLsb' (by omega),
    BitVec.extractLsb'_append_extractLsb'_eq_extractLsb' (by omega),
    BitVec.extractLsb'_append_extractLsb']

theorem and_four_fields (x' : BitVec k) (y' : BitVec l) (z' : BitVec m) (t' : BitVec n) :
    (x ++ y ++ z ++ t) &&& (x' ++ y' ++ z' ++ t') = (x &&& x') ++ (y &&& y') ++ (z &&& z') ++ (t &&& t') := by
  simp only [BitVec.and_append]

/-- A number whose upper part is 0 is its lower part with zeros above it. -/
theorem zero_append_extractLsb' {x : BitVec (k + l)} (h : x.extractLsb' l k = 0#k) : 0#k ++ x.extractLsb' 0 l = x := by
  rw [← h, BitVec.extractLsb'_append_extractLsb']

/-- A mask of ones over zeros tests the upper part alone. -/
theorem and_ones_append_zeros_eq_zero_iff {x : BitVec (k + l)} :
    x &&& (BitVec.allOnes k ++ 0#l) = 0#(k + l) ↔ ∃ y : BitVec l, x = 0#k ++ y := by
  constructor
  · intro h
    rw [← BitVec.extractLsb'_append_extractLsb' (x := x), BitVec.and_append, ← BitVec.zero_append_zero] at h
    have hk := congrArg (BitVec.extractLsb' l k) h
    simp only [BitVec.extractLsb'_append_eq_left, BitVec.and_allOnes] at hk
    exact ⟨_, (zero_append_extractLsb' hk).symm⟩
  · rintro ⟨y, rfl⟩
    simp [BitVec.and_append, BitVec.zero_append_zero]

end FourFields

section Fields

variable (u o : BitVec 4) (a : BitVec 8) (d : BitVec 16) (delay period : BitVec 12) (w : Word)

@[simp] theorem unitOf_wordR : unitOf (wordR u o a d) = u := extractLsb'_field_one u o a d

@[simp] theorem opOf_wordR : opOf (wordR u o a d) = o := extractLsb'_field_two u o a d

@[simp] theorem aOf_wordR : aOf (wordR u o a d) = a := extractLsb'_field_three u o a d

@[simp] theorem dOf_wordR : dOf (wordR u o a d) = d := BitVec.extractLsb'_append_eq_right

@[simp] theorem unitOf_wordS : unitOf (wordS u o delay period) = u := extractLsb'_field_one u o delay period

@[simp] theorem opOf_wordS : opOf (wordS u o delay period) = o := extractLsb'_field_two u o delay period

@[simp] theorem delayOf_wordS : delayOf (wordS u o delay period) = delay := extractLsb'_field_three u o delay period

@[simp] theorem periodOf_wordS : periodOf (wordS u o delay period) = period := BitVec.extractLsb'_append_eq_right

theorem wordR_fields : wordR (unitOf w) (opOf w) (aOf w) (dOf w) = w := by
  unfold wordR unitOf opOf aOf dOf
  exact append_four_fields (k := 4) (l := 4) (m := 8) (n := 16) w

theorem wordS_fields : wordS (unitOf w) (opOf w) (delayOf w) (periodOf w) = w := by
  unfold wordS unitOf opOf delayOf periodOf
  exact append_four_fields (k := 4) (l := 4) (m := 12) (n := 12) w

end Fields

/-! ### Decoding and encoding (R102, R107) -/

section RoundTrip

variable {i j : Instr} {w : Word} {op : Nat} {a : BitVec 8} {d : BitVec 16}

@[simp] theorem extractLsb'_upper_byte (b : BitVec 8) : (0#8 ++ b : Half).extractLsb' 8 8 = 0#8 :=
  BitVec.extractLsb'_append_eq_left

@[simp] theorem extractLsb'_lower_byte (b : BitVec 8) : (0#8 ++ b : Half).extractLsb' 0 8 = b :=
  BitVec.extractLsb'_append_eq_right

@[simp] theorem extractLsb'_above_selector (sel : BitVec 2) : (0#14 ++ sel : Half).extractLsb' 2 14 = 0#14 :=
  BitVec.extractLsb'_append_eq_left

@[simp] theorem extractLsb'_selector (sel : BitVec 2) : (0#14 ++ sel : Half).extractLsb' 0 2 = sel :=
  BitVec.extractLsb'_append_eq_right

/-- Decoding gives back the command: each field of its word is read where the encoder put it. -/
theorem decode_encode (i : Instr) : decode (encode i) = .ok i := by
  cases i with
  | rbPush | rbPop | rbLen => simp [encode, decode, decodeRb, ifZero]
  | fvRx | fvTx | fvXfer => simp [encode, decode, decodeFv, ifZero]
  | svcReg | svcDel | svcIsreg | svcPlen | svcNext | svcRdparam | svcDone | svcResp =>
    simp [encode, decode, decodeSvc, ifZero]
  | schAdd | schDel | schNext | schDone | schRdslot => simp [encode, decode, decodeSch, ifZero]
  | csrRead | csrWrite => simp [encode, decode, decodeCsr, ifZero]

theorem decode_of_encode_eq (h : encode i = w) : decode w = .ok i := h ▸ decode_encode i

theorem zero_append_lower_byte (h : d.extractLsb' 8 8 = 0#8) : 0#8 ++ d.extractLsb' 0 8 = d :=
  zero_append_extractLsb' (k := 8) (l := 8) h

theorem zero_append_selector (h : d.extractLsb' 2 14 = 0#14) : 0#14 ++ d.extractLsb' 0 2 = d :=
  zero_append_extractLsb' (k := 14) (l := 2) h

/-- A row that demands zero bits reads its command only where they are zero (R103). -/
theorem encode_of_ifZero {clear : Bool} {unit : Nat} (h : ifZero clear unit op i = .ok j)
    (hi : clear = true → encode i = w) : encode j = w := by
  unfold ifZero at h
  split at h
  next hclear =>
    cases h
    exact hi hclear
  next => cases h

/-! Each unit's decoder: a word it reads is the encoding of the command it reads from it. The bits that the encoder
leaves 0 are those the row demands to be 0. -/

theorem encode_of_decodeRb (h : decodeRb op a d = .ok i) : encode i = wordR 0#4 (.ofNat 4 op) a d := by
  unfold decodeRb at h
  split at h
  case h_1 =>
    cases h
    rfl
  case h_4 => cases h
  all_goals exact encode_of_ifZero h (by simp +contextual [encode])

theorem encode_of_decodeFv (h : decodeFv op a d = .ok i) : encode i = wordR 1#4 (.ofNat 4 op) a d := by
  unfold decodeFv at h
  split at h
  case h_4 => cases h
  all_goals exact encode_of_ifZero h (by simp +contextual [encode, zero_append_lower_byte])

theorem encode_of_decodeSvc (h : decodeSvc op a d = .ok i) : encode i = wordR 2#4 (.ofNat 4 op) a d := by
  unfold decodeSvc at h
  split at h
  case h_9 => cases h
  all_goals exact encode_of_ifZero h (by simp +contextual [encode, zero_append_lower_byte])

theorem encode_of_decodeSch (hunit : unitOf w = 3#4) (hop : opOf w = .ofNat 4 op) (h : decodeSch op w = .ok i) :
    encode i = w := by
  have hwordR := hop ▸ hunit ▸ wordR_fields w
  unfold decodeSch at h
  split at h
  case h_1 =>
    cases h
    rw [encode, ← hunit, ← hop, wordS_fields]
  case h_6 => cases h
  all_goals
    refine encode_of_ifZero h fun hzero => .trans ?_ hwordR
    simp_all [encode, zero_append_selector]

theorem encode_of_decodeCsr (h : decodeCsr op a d = .ok i) : encode i = wordR 4#4 (.ofNat 4 op) a d := by
  unfold decodeCsr at h
  split at h
  case h_2 =>
    cases h
    rfl
  case h_3 => cases h
  all_goals exact encode_of_ifZero h (by simp +contextual [encode])

theorem wordR_of_toNat_fields {unit : Nat} (hunit : (unitOf w).toNat = unit) :
    wordR (.ofNat 4 unit) (.ofNat 4 (opOf w).toNat) (aOf w) (dOf w) = w := by
  subst hunit
  simp [wordR_fields]

/-- A word that decodes is the encoding of what it decodes to, so decoding drops no bit. -/
theorem encode_of_decode (h : decode w = .ok i) : encode i = w := by
  unfold decode at h
  split at h
  next hunit => exact (encode_of_decodeRb h).trans (wordR_of_toNat_fields hunit)
  next hunit => exact (encode_of_decodeFv h).trans (wordR_of_toNat_fields hunit)
  next hunit => exact (encode_of_decodeSvc h).trans (wordR_of_toNat_fields hunit)
  next hunit => exact encode_of_decodeSch (BitVec.eq_of_toNat_eq hunit) (by simp) h
  next hunit => exact (encode_of_decodeCsr h).trans (wordR_of_toNat_fields hunit)
  next => cases h

/-- Settles O1: every field is read where it is written (`decode_encode`), and the bits that no field reads are 0 in a
word that decodes, as the encoder writes them (`encode_of_decode`). -/
theorem decodeAndEncodeAgree : Obligations.DecodeAndEncodeAgree :=
  ⟨decode_encode, fun _ _ => encode_of_decode⟩

end RoundTrip

/-- Settles O3: each written word is the encoding of its command. -/
theorem writtenWordsDecode : Obligations.WrittenWordsDecode := by
  unfold Obligations.WrittenWordsDecode
  and_intros <;> exact decode_of_encode_eq rfl

/-! ### The opcode table (R102, R103)

Every row's value is its UNIT and OP with zeros below, and its mask is ones over UNIT and OP and over the operand bits
that must be 0. There is one lemma for each such mask: a word matches under it exactly when it has those bits 0. -/

section Rows

variable {w : Word}

theorem wordR_and_wordR (u u' o o' : BitVec 4) (a a' : BitVec 8) (d d' : BitVec 16) :
    wordR u o a d &&& wordR u' o' a' d' = wordR (u &&& u') (o &&& o') (a &&& a') (d &&& d') :=
  and_four_fields u o a d u' o' a' d'

theorem wordR_inj {u u' o o' : BitVec 4} {a a' : BitVec 8} {d d' : BitVec 16} :
    wordR u o a d = wordR u' o' a' d' ↔ u = u' ∧ o = o' ∧ a = a' ∧ d = d' := by
  constructor
  · intro h
    exact ⟨by simpa using congrArg unitOf h, by simpa using congrArg opOf h, by simpa using congrArg aOf h,
      by simpa using congrArg dOf h⟩
  · rintro ⟨rfl, rfl, rfl, rfl⟩
    rfl

/-- The mask of a row, with `ma` and `md` over the bits of A and D that must be 0. -/
def rowMask (ma : BitVec 8) (md : BitVec 16) : Word := wordR (.allOnes 4) (.allOnes 4) ma md

/-- A word matches a row of UNIT `u` and OP `o` exactly when those are its fields and it has no masked operand bit. -/
theorem and_rowMask_eq_iff (u o : BitVec 4) (ma : BitVec 8) (md : BitVec 16) :
    w &&& rowMask ma md = wordR u o 0#8 0#16 ↔ ∃ a d, (a &&& ma = 0#8 ∧ d &&& md = 0#16) ∧ wordR u o a d = w := by
  constructor
  · intro h
    rw [← wordR_fields w, rowMask, wordR_and_wordR, wordR_inj] at h
    obtain ⟨hu, ho, ha, hd⟩ := h
    rw [BitVec.and_allOnes] at hu ho
    exact ⟨_, _, ⟨ha, hd⟩, hu ▸ ho ▸ wordR_fields w⟩
  · rintro ⟨a, d, ⟨ha, hd⟩, rfl⟩
    rw [rowMask, wordR_and_wordR, BitVec.and_allOnes, BitVec.and_allOnes, ha, hd]

theorem and_upper_byte_eq_zero_iff {d : Half} : d &&& 0xFF00#16 = 0#16 ↔ ∃ b : BitVec 8, d = 0#8 ++ b :=
  and_ones_append_zeros_eq_zero_iff (k := 8) (l := 8)

theorem and_above_selector_eq_zero_iff {d : Half} : d &&& 0xFFFC#16 = 0#16 ↔ ∃ sel : BitVec 2, d = 0#14 ++ sel :=
  and_ones_append_zeros_eq_zero_iff (k := 14) (l := 2)

variable (u o : BitVec 4)

theorem selects_ad_iff : w &&& 0xFF000000#32 = wordR u o 0#8 0#16 ↔ ∃ a d, wordR u o a d = w :=
  (and_rowMask_eq_iff u o 0x00#8 0x0000#16).trans (by simp)

theorem selects_a_iff : w &&& 0xFF00FFFF#32 = wordR u o 0#8 0#16 ↔ ∃ a, wordR u o a 0#16 = w :=
  (and_rowMask_eq_iff u o 0x00#8 (.allOnes 16)).trans (by simp [-BitVec.reduceAllOnes])

theorem selects_none_iff : w &&& 0xFFFFFFFF#32 = wordR u o 0#8 0#16 ↔ wordR u o 0#8 0#16 = w :=
  (and_rowMask_eq_iff u o (.allOnes 8) (.allOnes 16)).trans (by simp [-BitVec.reduceAllOnes])

theorem selects_byte_iff : w &&& 0xFFFFFF00#32 = wordR u o 0#8 0#16 ↔ ∃ b : BitVec 8, wordR u o 0#8 (0#8 ++ b) = w :=
  (and_rowMask_eq_iff u o (.allOnes 8) 0xFF00#16).trans (by simp [-BitVec.reduceAllOnes, and_upper_byte_eq_zero_iff])

theorem selects_a_byte_iff :
    w &&& 0xFF00FF00#32 = wordR u o 0#8 0#16 ↔ ∃ a, ∃ b : BitVec 8, wordR u o a (0#8 ++ b) = w :=
  (and_rowMask_eq_iff u o 0x00#8 0xFF00#16).trans (by simp [and_upper_byte_eq_zero_iff])

theorem selects_a_selector_iff :
    w &&& 0xFF00FFFC#32 = wordR u o 0#8 0#16 ↔ ∃ a, ∃ sel : BitVec 2, wordR u o a (0#14 ++ sel) = w :=
  (and_rowMask_eq_iff u o 0x00#8 0xFFFC#16).trans (by simp [and_above_selector_eq_zero_iff])

theorem selects_delay_period_iff : w &&& 0xFF000000#32 = wordR u o 0#8 0#16 ↔ ∃ d p, wordS u o d p = w := by
  rw [selects_ad_iff]
  constructor
  · rintro ⟨a, d, rfl⟩
    exact ⟨_, _, by simpa using wordS_fields (wordR u o a d)⟩
  · rintro ⟨d, p, rfl⟩
    exact ⟨_, _, by simpa using wordR_fields (wordS u o d p)⟩

theorem mem_of_rowNamed {m : String} {r : Row} (h : Laws.rowNamed m = some r) : r ∈ opcodeRows ∧ r.mnemonic = m :=
  ⟨List.mem_of_find?_eq_some h, by simpa using List.find?_some h⟩

/-- The word of a command matches the row of its mnemonic. -/
theorem encode_matches_row (i : Instr) :
    ∃ r, Laws.rowNamed (mnemonicOf i) = some r ∧ encode i &&& r.mask = r.value := by
  cases i with
  | rbPush k d => exact ⟨_, rfl, (selects_ad_iff 0 0).2 ⟨k, d, rfl⟩⟩
  | rbPop k => exact ⟨_, rfl, (selects_a_iff 0 1).2 ⟨k, rfl⟩⟩
  | rbLen k => exact ⟨_, rfl, (selects_a_iff 0 2).2 ⟨k, rfl⟩⟩
  | fvRx b => exact ⟨_, rfl, (selects_byte_iff 1 0).2 ⟨b, rfl⟩⟩
  | fvTx => exact ⟨_, rfl, (selects_none_iff 1 1).2 rfl⟩
  | fvXfer => exact ⟨_, rfl, (selects_none_iff 1 2).2 rfl⟩
  | svcReg a n => exact ⟨_, rfl, (selects_a_byte_iff 2 0).2 ⟨a, n, rfl⟩⟩
  | svcDel a => exact ⟨_, rfl, (selects_a_iff 2 1).2 ⟨a, rfl⟩⟩
  | svcIsreg a => exact ⟨_, rfl, (selects_a_iff 2 2).2 ⟨a, rfl⟩⟩
  | svcPlen a => exact ⟨_, rfl, (selects_a_iff 2 3).2 ⟨a, rfl⟩⟩
  | svcNext => exact ⟨_, rfl, (selects_none_iff 2 4).2 rfl⟩
  | svcRdparam a j => exact ⟨_, rfl, (selects_a_byte_iff 2 5).2 ⟨a, j, rfl⟩⟩
  | svcDone a v => exact ⟨_, rfl, (selects_a_byte_iff 2 6).2 ⟨a, v, rfl⟩⟩
  | svcResp a => exact ⟨_, rfl, (selects_a_iff 2 7).2 ⟨a, rfl⟩⟩
  | schAdd d p => exact ⟨_, rfl, (selects_delay_period_iff 3 0).2 ⟨d, p, rfl⟩⟩
  | schDel h => exact ⟨_, rfl, (selects_a_iff 3 1).2 ⟨h, rfl⟩⟩
  | schNext => exact ⟨_, rfl, (selects_none_iff 3 2).2 rfl⟩
  | schDone h => exact ⟨_, rfl, (selects_a_iff 3 3).2 ⟨h, rfl⟩⟩
  | schRdslot h sel => exact ⟨_, rfl, (selects_a_selector_iff 3 4).2 ⟨h, sel, rfl⟩⟩
  | csrRead n => exact ⟨_, rfl, (selects_a_iff 4 0).2 ⟨n, rfl⟩⟩
  | csrWrite n v => exact ⟨_, rfl, (selects_ad_iff 4 1).2 ⟨n, v, rfl⟩⟩

/-- A word that matches a row is the word of a command with that row's mnemonic. -/
theorem exists_encode_of_row :
    ∀ r ∈ opcodeRows, w &&& r.mask = r.value → ∃ i, encode i = w ∧ mnemonicOf i = r.mnemonic := by
  simp only [opcodeRows, List.cons_append, List.nil_append, List.forall_mem_cons, List.not_mem_nil, false_implies,
    implies_true, and_true]
  and_intros
  all_goals intro hmatch
  · obtain ⟨k, d, rfl⟩ := (selects_ad_iff 0 0).1 hmatch
    exact ⟨.rbPush k d, rfl, rfl⟩
  · obtain ⟨k, rfl⟩ := (selects_a_iff 0 1).1 hmatch
    exact ⟨.rbPop k, rfl, rfl⟩
  · obtain ⟨k, rfl⟩ := (selects_a_iff 0 2).1 hmatch
    exact ⟨.rbLen k, rfl, rfl⟩
  · obtain ⟨b, rfl⟩ := (selects_byte_iff 1 0).1 hmatch
    exact ⟨.fvRx b, rfl, rfl⟩
  · exact ⟨.fvTx, (selects_none_iff 1 1).1 hmatch, rfl⟩
  · exact ⟨.fvXfer, (selects_none_iff 1 2).1 hmatch, rfl⟩
  · obtain ⟨a, n, rfl⟩ := (selects_a_byte_iff 2 0).1 hmatch
    exact ⟨.svcReg a n, rfl, rfl⟩
  · obtain ⟨a, rfl⟩ := (selects_a_iff 2 1).1 hmatch
    exact ⟨.svcDel a, rfl, rfl⟩
  · obtain ⟨a, rfl⟩ := (selects_a_iff 2 2).1 hmatch
    exact ⟨.svcIsreg a, rfl, rfl⟩
  · obtain ⟨a, rfl⟩ := (selects_a_iff 2 3).1 hmatch
    exact ⟨.svcPlen a, rfl, rfl⟩
  · exact ⟨.svcNext, (selects_none_iff 2 4).1 hmatch, rfl⟩
  · obtain ⟨a, j, rfl⟩ := (selects_a_byte_iff 2 5).1 hmatch
    exact ⟨.svcRdparam a j, rfl, rfl⟩
  · obtain ⟨a, v, rfl⟩ := (selects_a_byte_iff 2 6).1 hmatch
    exact ⟨.svcDone a v, rfl, rfl⟩
  · obtain ⟨a, rfl⟩ := (selects_a_iff 2 7).1 hmatch
    exact ⟨.svcResp a, rfl, rfl⟩
  · obtain ⟨d, p, rfl⟩ := (selects_delay_period_iff 3 0).1 hmatch
    exact ⟨.schAdd d p, rfl, rfl⟩
  · obtain ⟨h, rfl⟩ := (selects_a_iff 3 1).1 hmatch
    exact ⟨.schDel h, rfl, rfl⟩
  · exact ⟨.schNext, (selects_none_iff 3 2).1 hmatch, rfl⟩
  · obtain ⟨h, rfl⟩ := (selects_a_iff 3 3).1 hmatch
    exact ⟨.schDone h, rfl, rfl⟩
  · obtain ⟨h, sel, rfl⟩ := (selects_a_selector_iff 3 4).1 hmatch
    exact ⟨.schRdslot h sel, rfl, rfl⟩
  · obtain ⟨n, rfl⟩ := (selects_a_iff 4 0).1 hmatch
    exact ⟨.csrRead n, rfl, rfl⟩
  · obtain ⟨n, v, rfl⟩ := (selects_ad_iff 4 1).1 hmatch
    exact ⟨.csrWrite n v, rfl, rfl⟩

/-- Settles O2: by O1 the decoder reads a word exactly as the command whose encoding it is. -/
theorem decoderFollowsOpcodeTable : Obligations.DecoderFollowsOpcodeTable := by
  intro w
  constructor
  · intro i hdecode
    obtain ⟨r, hr, hmatch⟩ := encode_matches_row i
    rw [encode_of_decode hdecode] at hmatch
    obtain ⟨hmem, hmnemonic⟩ := mem_of_rowNamed hr
    exact ⟨r, hmem, hmnemonic, hmatch⟩
  · intro r hr hmatch
    obtain ⟨i, hencode, hmnemonic⟩ := exists_encode_of_row r hr hmatch
    exact ⟨i, decode_of_encode_eq hencode, hmnemonic⟩

theorem decode_eq_error_of_no_row (h : ∀ r ∈ opcodeRows, w &&& r.mask ≠ r.value) : ∃ e, decode w = .error e := by
  cases hdecode : decode w with
  | error e => exact ⟨e, rfl⟩
  | ok i =>
    obtain ⟨r, hr, -, hmatch⟩ := (decoderFollowsOpcodeTable w).1 i hdecode
    exact absurd hmatch (h r hr)

end Rows

end Sys2Proof

namespace Sys2Proof.Machine

/-! ### Taking a command word (R104, R106) -/

/-- Settles O4: the step takes the input, and the port's word is decoded and run. -/
theorem stepRunsDecodedCommand : Obligations.StepRunsDecodedCommand := by
  intro s p w i rest hw hinbox hp hdecode
  rw [step_of_inbox hw hinbox]
  exact issue_of_decode (s := s.withInbox rest) hp hdecode

/-- Settles O5: a word of no row does not decode (O2), and the answer to it is `fail`. -/
theorem unselectedWordIsIllegal : Obligations.UnselectedWordIsIllegal := by
  intro s p w rest hw hshape hinbox hp hnone
  obtain ⟨e, hdecode⟩ := decode_eq_error_of_no_row hnone
  have hready : Ready ((s.withInbox rest).withPort p) := ⟨hw, hshape, hp⟩
  rw [step_of_inbox hw hinbox]
  exact ⟨_, issue_of_error (s := s.withInbox rest) hp hdecode, onlyAnswers_fail hready⟩

/-! ### The port a command is legal on (R105) -/

section Legality

variable {s : State} {i : Instr}

/-- Every command begins with the check of R105. -/
theorem exec_eq_ifLegal (i : Instr) (s : State) : ∃ t, exec i s = ifLegal (portLegal i s) s t := by
  cases i <;> exact ⟨_, rfl⟩

theorem exec_of_not_portLegal (h : portLegal i s ≠ true) : exec i s = .next (fail .illegal s) := by
  obtain ⟨t, ht⟩ := exec_eq_ifLegal i s
  rw [ht, Bool.eq_false_of_not_eq_true h, ifLegal_false]

/-- Settles O6: outside its row of the table of R105 a command is not `portLegal`, so it fails before it acts. -/
theorem wrongPortIsIllegal : Obligations.WrongPortIsIllegal := by
  intro s i hready hrow
  refine ⟨_, exec_of_not_portLegal fun hlegal => ?_, onlyAnswers_fail hready⟩
  cases i with
  | rbPush k d => exact hrow (onProducer_eq_true_iff.1 hlegal).symm
  | rbPop k => exact hrow (onConsumer_eq_true_iff.1 hlegal).symm
  | rbLen k =>
    rcases Bool.or_eq_true_iff.1 hlegal with hlegal | hlegal
    · obtain ⟨hk, hport⟩ := onProducer_eq_true_iff.1 hlegal
      exact hrow ⟨.inl hport, hk⟩
    · obtain ⟨hk, hport⟩ := onConsumer_eq_true_iff.1 hlegal
      exact hrow ⟨.inr hport, hk⟩
  | fvRx | fvTx | fvXfer => exact hrow (onTransport_eq_true_iff.1 hlegal)
  | svcReg | svcDel | svcIsreg | svcPlen | svcNext | svcRdparam | svcDone | svcResp =>
    exact hrow (onHost_eq_true_iff.1 hlegal)
  | schAdd | schDel | schNext | schDone | schRdslot => exact hrow (onHostWithSched_eq_true_iff.1 hlegal)
  | csrRead | csrWrite => exact hrow (onHost_eq_true_iff.1 hlegal)

end Legality

end Sys2Proof.Machine

/-! ## The ring buffer's commands and synchronisers, one rule each

Settled here: O9, O10, O11 and O14. First the frame of an update of one ring, with an answer or without; then, for each
command, the equation of `exec` in the cases of its rule. -/

namespace Sys2Proof.Machine

section RingRules

variable {s : State} {k : BitVec 8}

/-! ### Replacing one ring -/

theorem lt_rb_length {n : Nat} (h : Ready s) (hn : n < s.cfg.rbCount) : n < s.rb.length := by
  obtain ⟨_, ⟨hrb, _⟩, _⟩ := h
  exact hrb.symm ▸ hn

/-- An update of ring `n` and the answer to it reach nothing else. -/
theorem onlyRing_respond_setRing (n : Nat) (r : Ring) (rc : ResultCode) (data : Half) :
    OnlyRing n s (respond rc data (setRing n r s)) :=
  ⟨rfl, fun _ hne => ringAt_setRing_of_ne r hne⟩

/-- An event that replaces one ring where its condition `P` holds, and does not occur elsewhere (R109). -/
theorem ifEnabled_setRing {P : Prop} [Decidable P] {enabled : Bool} {n : Nat} (r : Ring) (x : Input)
    (hn : n < s.rb.length) (henabled : enabled = true ↔ P) :
    if P then
      ∃ t, ifEnabled enabled x (setRing n r s) = .next t ∧ t = s.withRb t.rb ∧
        (∀ j, j ≠ n → ringAt t j = ringAt s j) ∧ ringAt t n = r
    else ifEnabled enabled x (setRing n r s) = .refused (.eventNotEnabled x) := by
  split
  next hP =>
    rw [henabled.2 hP, ifEnabled_true]
    exact ⟨_, rfl, rfl, fun _ hne => ringAt_setRing_of_ne r hne, by rw [ringAt_setRing r n hn, if_pos rfl]⟩
  next hP => rw [Bool.eq_false_of_not_eq_true (mt henabled.1 hP), ifEnabled_false]

/-! ### The other cases of the commands: full, empty, and RB_LEN on each port (R131 to R133) -/

theorem exec_rbPush_of_full {d : Half} (hk : k.toNat < s.cfg.rbCount) (hp : s.port = .producer k.toNat)
    (hfull : fullP s k.toNat = true) : exec (.rbPush k d) s = .next (fail .full s) := by
  have hlegal : onProducer k s = true := onProducer_eq_true_iff.2 ⟨hk, hp⟩
  simp only [exec, execRbPush, hlegal, ifLegal_true, hfull, if_true]

theorem exec_rbPop_of_empty (hk : k.toNat < s.cfg.rbCount) (hp : s.port = .consumer k.toNat)
    (hempty : emptyC s k.toNat = true) : exec (.rbPop k) s = .next (fail .empty s) := by
  have hlegal : onConsumer k s = true := onConsumer_eq_true_iff.2 ⟨hk, hp⟩
  simp only [exec, execRbPop, hlegal, ifLegal_true, hempty, if_true]

theorem exec_rbLen_of_producer (hk : k.toNat < s.cfg.rbCount) (hp : s.port = .producer k.toNat) :
    exec (.rbLen k) s = .next (respond .ok (dataOf (pcount s k.toNat)) s) := by
  have hlegal : onProducer k s = true := onProducer_eq_true_iff.2 ⟨hk, hp⟩
  simp only [exec, execRbLen, hlegal, Bool.true_or, ifLegal_true, if_pos hp]

theorem exec_rbLen_of_consumer (hk : k.toNat < s.cfg.rbCount) (hp : s.port = .consumer k.toNat) :
    exec (.rbLen k) s = .next (respond .ok (dataOf (ccount s k.toNat)) s) := by
  have hlegal : onConsumer k s = true := onConsumer_eq_true_iff.2 ⟨hk, hp⟩
  have hside : s.port ≠ .producer k.toNat := by simp [hp]
  simp only [exec, execRbLen, hlegal, Bool.or_true, ifLegal_true, if_neg hside]

end RingRules

/-- Settles O9: where the ring is not full, `ringAt_ringPush` gives the cursors and `memRead_ringPush` the slots. -/
theorem rbPushStoresAtHead : Obligations.RbPushStoresAtHead := by
  intro s k d hready hk hp
  have hlen : k.toNat < s.rb.length := lt_rb_length hready hk
  cases hfull : fullP s k.toNat with
  | true =>
    refine ⟨_, exec_rbPush_of_full hk hp hfull, ?_⟩
    intro c r r'
    rw [if_pos (fullP_eq_true_iff.1 hfull)]
    exact onlyAnswers_fail hready
  | false =>
    refine ⟨_, exec_rbPush_of_room hk hp hfull, ?_⟩
    intro c r r'
    rw [← Bool.not_eq_true, fullP_eq_true_iff] at hfull
    rw [if_neg hfull]
    have hring : r' = _ := (ringAt_ringPush d k.toNat hlen).trans (if_pos rfl)
    refine ⟨answers_respond hready rfl rfl, onlyRing_respond_setRing .., ?_⟩
    rw [hring]
    refine ⟨rfl, rfl, rfl, rfl, ?_, fun i hne => ?_⟩
    · rw [memRead_respond, memRead_ringPush d _ hlen, if_pos rfl]
      split
      next hwidth => rw [elementOf_of_w8 hwidth]
      next hwidth => rw [elementOf_of_w16 hwidth]
    · rw [memRead_respond, memRead_ringPush d i hlen, if_neg hne]

/-- Settles O10: where the ring is not empty, `ringAt_ringPop` gives the cursors and `memRead_ringPop` the slots. -/
theorem rbPopReadsAtTail : Obligations.RbPopReadsAtTail := by
  intro s k hready hk hp
  have hlen : k.toNat < s.rb.length := lt_rb_length hready hk
  cases hempty : emptyC s k.toNat with
  | true =>
    refine ⟨_, exec_rbPop_of_empty hk hp hempty, ?_⟩
    intro c r r'
    rw [if_pos (emptyC_eq_true_iff.1 hempty)]
    exact onlyAnswers_fail hready
  | false =>
    refine ⟨_, exec_rbPop_of_some hk hp hempty, ?_⟩
    intro c r r'
    rw [← Bool.not_eq_true, emptyC_eq_true_iff] at hempty
    rw [if_neg hempty]
    have hring : r' = _ := (ringAt_ringPop k.toNat hlen).trans (if_pos rfl)
    refine ⟨answers_respond hready rfl rfl, onlyRing_respond_setRing .., ?_⟩
    rw [hring]
    exact ⟨rfl, rfl, rfl, rfl, fun i => memRead_ringPop i hlen⟩

/-- Settles O11: the two counts are `pcount` and `ccount` of R33. -/
theorem rbLenReadsOwnSide : Obligations.RbLenReadsOwnSide := by
  intro s k hready hk
  exact ⟨fun hp => ⟨_, exec_rbLen_of_producer hk hp, onlyAnswers_respond hready⟩,
    fun hp => ⟨_, exec_rbLen_of_consumer hk hp, onlyAnswers_respond hready⟩⟩

/-- Settles O14: each synchroniser replaces its ring where it is enabled (`ifEnabled_setRing`); for `k < RB_COUNT` and
`v < M` that is the condition of R134 and R135. -/
theorem synchronisersSampleCursors : Obligations.SynchronisersSampleCursors := by
  intro s k v rest hready hk hv c r
  have hlen : k < (s.withInbox rest).rb.length := lt_rb_length (s := s) hready hk
  refine ⟨fun hinbox => ?_, fun hinbox => ?_⟩
  · rw [step_of_inbox hready.1 hinbox]
    refine ifEnabled_setRing { r with tailP := v } (.syncP k v) hlen (syncPEnabled_eq_true_iff.trans ?_)
    exact ⟨fun ⟨_, hclk, _, hbetween⟩ => ⟨hclk, hbetween⟩, fun ⟨hclk, hbetween⟩ => ⟨hk, hclk, hv, hbetween⟩⟩
  · rw [step_of_inbox hready.1 hinbox]
    refine ifEnabled_setRing { r with headC := v } (.syncC k v) hlen (syncCEnabled_eq_true_iff.trans ?_)
    exact ⟨fun ⟨_, hclk, _, hbetween⟩ => ⟨hclk, hbetween⟩, fun ⟨hclk, hbetween⟩ => ⟨hk, hclk, hv, hbetween⟩⟩

end Sys2Proof.Machine

/-! ## The scheduler's commands, TICK, a task's due times and the timer's period

Settled here: O36 to O43. First what the two scans choose, what an update of one slot leaves alone and what a finished
run makes of its slot; then, for each command, the equation of `exec` in the cases of its rule. The due times and the
timer's period are inductions over ticks and cycles. -/

namespace Sys2Proof.Machine

section SchedulerRules

variable {s u : State} {j : Nat}

/-! ### The two scans (R151, R154) -/

theorem freeSlot_eq_none_iff : freeSlot s = none ↔ ∀ j < s.cfg.nslots, (slotAt s j).occ = true := by
  simp only [freeSlot, lowest_eq_none_iff, Bool.not_eq_false']

theorem freeSlot_eq_some_iff :
    freeSlot s = some j ↔ j < s.cfg.nslots ∧ (slotAt s j).occ = false ∧ ∀ i < j, (slotAt s i).occ = true := by
  simp only [freeSlot, lowest_eq_some_iff, Bool.not_eq_true', Bool.not_eq_false']

theorem nextDue_eq_none_iff :
    nextDue s = none ↔
      ∀ j < s.cfg.nslots, s.sch.sp.toNat ≤ j → ¬ ((slotAt s j).occ = true ∧ 0 < (slotAt s j).run.toNat) := by
  simp only [nextDue, lowest_eq_none_iff, ← Bool.not_eq_true, Bool.and_eq_true, decide_eq_true_iff, due_eq_true_iff,
    not_and]

theorem nextDue_eq_some_iff :
    nextDue s = some j ↔
      j < s.cfg.nslots ∧ s.sch.sp.toNat ≤ j ∧ (slotAt s j).occ = true ∧ 0 < (slotAt s j).run.toNat ∧
        ∀ i < j, s.sch.sp.toNat ≤ i → ¬ ((slotAt s i).occ = true ∧ 0 < (slotAt s i).run.toNat) := by
  simp only [nextDue, lowest_eq_some_iff, ← Bool.not_eq_true, Bool.and_eq_true, decide_eq_true_iff, due_eq_true_iff,
    not_and, and_assoc]

/-! ### Updates of one slot -/

/-- An update of the scheduler that keeps all slots but `j`, and the answer to it, reach nothing else. -/
theorem onlySlot_respond {rc : ResultCode} {data : Half} (hframe : ∃ sch, u = s.withSch sch)
    (hslots : ∀ i, i ≠ j → slotAt u i = slotAt s i) : OnlySlot j s (respond rc data u) := by
  obtain ⟨sch, rfl⟩ := hframe
  exact ⟨rfl, hslots⟩

theorem onlySlot_respond_setSlot {rc : ResultCode} {data : Half} (x : Slot) (hj : j < s.sch.slots.length) :
    OnlySlot j s (respond rc data (setSlot j x s)) :=
  onlySlot_respond ⟨_, rfl⟩ fun i hne => by rw [slotAt_setSlot x i hj, if_neg hne]

theorem slotAt_setSlot_self (x : Slot) (hj : j < s.sch.slots.length) : slotAt (setSlot j x s) j = x := by
  rw [slotAt_setSlot x j hj, if_pos rfl]

/-- A finished run empties the slot of a one-shot task and touches no other (R155). -/
theorem slotAt_finish (i : Nat) (hj : j < s.sch.slots.length) :
    slotAt (finish j s) i = if i = j ∧ (slotAt s j).period = 0#12 then Slot.empty else slotAt s i := by
  by_cases hp : (slotAt s j).period = 0#12
  · have hslot : ({ slotAt s j with occ := false, delay := 0#12, run := 0#8 } : Slot) = Slot.empty := by
      dsimp only
      rw [hp, Slot.empty]
    rw [finish_of_oneShot hp, hslot]
    refine (slotAt_setSlot Slot.empty i hj).trans ?_
    simp only [hp, and_true]
  · rw [finish_of_periodic hp, if_neg fun h => hp h.2]
    rfl

/-- A finished run leaves nothing in flight, and the scan where it was (R155). -/
theorem finish_scan (j : Nat) (s : State) :
    (finish j s).sch.inflight = false ∧ (finish j s).sch.sp = s.sch.sp ∧ (finish j s).sch.ifslot = s.sch.ifslot := by
  by_cases hp : (slotAt s j).period = 0#12
  · rw [finish_of_oneShot hp]
    exact ⟨rfl, rfl, rfl⟩
  · rw [finish_of_periodic hp]
    exact ⟨rfl, rfl, rfl⟩

/-- The scan position and the handle of the slot handed out fit their fields (R39, R154). -/
theorem handOut_scan (hj : j < 16) : (handOut j s).sch.sp.toNat = j + 1 ∧ (handOut j s).sch.ifslot.toNat = j :=
  ⟨Nat.mod_eq_of_lt (by omega), Nat.mod_eq_of_lt hj⟩

/-! ### The commands on HOST (R151, R152, R154 to R156) -/

variable {d p : BitVec 12} {h : Byte} {sel : BitVec 2}

theorem ifLegal_onHostWithSched (hp : s.port = .host) (hs : s.cfg.hasSched = true) (t : State) :
    ifLegal (onHostWithSched s) s t = .next t := by
  rw [onHostWithSched_eq_true_iff.2 ⟨hp, hs⟩, ifLegal_true]

theorem exec_schAdd_of_inflight (hp : s.port = .host) (hs : s.cfg.hasSched = true) (hin : s.sch.inflight = true) :
    exec (.schAdd d p) s = .next (fail .seqError s) :=
  (ifLegal_onHostWithSched hp hs _).trans (congrArg _ (if_pos hin))

theorem exec_schAdd_of_full (hp : s.port = .host) (hs : s.cfg.hasSched = true) (hidle : s.sch.inflight = false)
    (hfree : freeSlot s = none) : exec (.schAdd d p) s = .next (fail .tableFull s) := by
  refine (ifLegal_onHostWithSched hp hs _).trans ?_
  simp only [hidle, Bool.false_eq_true, if_false, hfree]

theorem exec_schAdd_of_free (hp : s.port = .host) (hs : s.cfg.hasSched = true) (hidle : s.sch.inflight = false)
    (hfree : freeSlot s = some j) :
    exec (.schAdd d p) s = .next (respond .ok (dataOf j) (setSlot j (newTask d p) s)) := by
  refine (ifLegal_onHostWithSched hp hs _).trans ?_
  simp only [hidle, Bool.false_eq_true, if_false, hfree]

theorem exec_schDel_eq (hp : s.port = .host) (hs : s.cfg.hasSched = true) :
    exec (.schDel h) s =
      .next
        (if s.sch.inflight = true then fail .seqError s
        else if s.cfg.nslots ≤ h.toNat then fail .invalidHandle s
        else respond .ok 0#16 (setSlot h.toNat Slot.empty s)) := ifLegal_onHostWithSched hp hs _

theorem exec_schNext_of_inflight (hp : s.port = .host) (hs : s.cfg.hasSched = true) (hin : s.sch.inflight = true) :
    exec .schNext s = .next (fail .seqError s) :=
  (ifLegal_onHostWithSched hp hs _).trans (congrArg _ (if_pos hin))

theorem exec_schNext_of_passEnd (hp : s.port = .host) (hs : s.cfg.hasSched = true) (hidle : s.sch.inflight = false)
    (hnone : nextDue s = none) : exec .schNext s = .next (fail .none (s.withSch { s.sch with sp := 0#5 })) := by
  refine (ifLegal_onHostWithSched hp hs _).trans ?_
  simp only [hidle, Bool.false_eq_true, if_false, hnone]

theorem exec_schNext_of_due (hp : s.port = .host) (hs : s.cfg.hasSched = true) (hidle : s.sch.inflight = false)
    (hdue : nextDue s = some j) : exec .schNext s = .next (respond .ok (dataOf j) (handOut j s)) := by
  refine (ifLegal_onHostWithSched hp hs _).trans ?_
  simp only [hidle, Bool.false_eq_true, if_false, hdue]

theorem exec_schDone_eq (hp : s.port = .host) (hs : s.cfg.hasSched = true) :
    exec (.schDone h) s =
      .next
        (if s.cfg.nslots ≤ h.toNat then fail .invalidHandle s
        else if s.sch.inflight = false ∨ s.sch.ifslot.toNat ≠ h.toNat then fail .seqError s
        else respond .ok 0#16 (finish h.toNat s)) := ifLegal_onHostWithSched hp hs _

theorem exec_schRdslot_eq (hp : s.port = .host) (hs : s.cfg.hasSched = true) :
    exec (.schRdslot h sel) s =
      .next
        (if s.cfg.nslots ≤ h.toNat then fail .invalidHandle s
        else respond .ok (slotField (slotAt s h.toNat) sel) s) := ifLegal_onHostWithSched hp hs _

/-- The fields of R156 by their selectors. -/
theorem slotField_eq (x : Slot) (sel : BitVec 2) :
    slotField x sel =
      if sel = 0#2 then x.delay.setWidth 16
      else if sel = 1#2 then x.period.setWidth 16
      else if sel = 2#2 then x.run.setWidth 16
      else if x.occ then 1#16 else 0#16 := by
  have hsel : ∀ sel : BitVec 2, sel = 0#2 ∨ sel = 1#2 ∨ sel = 2#2 ∨ sel = 3#2 := by decide
  obtain rfl | rfl | rfl | rfl := hsel sel <;> rfl

end SchedulerRules

/-- Settles O36, by `freeSlot_eq_some_iff`: the slot filled is the lowest free one. -/
theorem schAddFillsLowestFreeSlot : Obligations.SchAddFillsLowestFreeSlot := by
  intro s d p hready hp hs
  cases hin : s.sch.inflight with
  | true => exact ⟨_, exec_schAdd_of_inflight hp hs hin, onlyAnswers_fail hready⟩
  | false =>
    cases hfree : freeSlot s with
    | none =>
      refine ⟨_, exec_schAdd_of_full hp hs hin hfree, ?_⟩
      rw [if_neg Bool.false_ne_true, if_pos (freeSlot_eq_none_iff.1 hfree)]
      exact onlyAnswers_fail hready
    | some j =>
      obtain ⟨hj, hocc, hlowest⟩ := freeSlot_eq_some_iff.1 hfree
      have hlen : j < s.sch.slots.length := slots_length hready hs ▸ hj
      refine ⟨_, exec_schAdd_of_free hp hs hin hfree, ?_⟩
      rw [if_neg Bool.false_ne_true, if_neg fun hfull => Bool.false_ne_true (hocc.symm.trans (hfull j hj))]
      refine ⟨j, hj, hocc, hlowest, answers_respond hready rfl rfl, onlySlot_respond_setSlot _ hlen,
        ⟨rfl, rfl, rfl⟩, ?_⟩
      rw [slotAt_respond, slotAt_setSlot_self _ hlen]
      split
      next hd => exact if_pos hd
      next hd => exact if_neg hd

/-- Settles O37, by the equation of SCH_DEL. -/
theorem schDelEmptiesSlot : Obligations.SchDelEmptiesSlot := by
  intro s h hready hp hs
  refine ⟨_, exec_schDel_eq hp hs, ?_⟩
  split_ifs with hin hrange
  · exact onlyAnswers_fail hready
  · exact onlyAnswers_fail hready
  · have hlen : h.toNat < s.sch.slots.length := slots_length hready hs ▸ Nat.lt_of_not_le hrange
    exact ⟨answers_respond hready rfl rfl, onlySlot_respond_setSlot _ hlen, ⟨rfl, rfl, rfl⟩,
      slotAt_setSlot_self _ hlen⟩

/-- Settles O38, by `nextDue_eq_some_iff`: the slot handed out is the lowest due one from the scan position on. -/
theorem schNextHandsOutLowestDue : Obligations.SchNextHandsOutLowestDue := by
  intro s hready hp hs
  cases hin : s.sch.inflight with
  | true => exact ⟨_, exec_schNext_of_inflight hp hs hin, onlyAnswers_fail hready⟩
  | false =>
    cases hdue : nextDue s with
    | none =>
      refine ⟨_, exec_schNext_of_passEnd hp hs hin hdue, ?_⟩
      rw [if_neg Bool.false_ne_true, if_pos (nextDue_eq_none_iff.1 hdue)]
      exact ⟨answers_respond hready rfl rfl, rfl⟩
    | some j =>
      obtain ⟨hj, hsp, hocc, hrun, hlowest⟩ := nextDue_eq_some_iff.1 hdue
      have hlen : j < s.sch.slots.length := slots_length hready hs ▸ hj
      obtain ⟨hnext, hhandle⟩ := handOut_scan (s := s) (hj.trans_le (nslots_le hready.1 hs))
      refine ⟨_, exec_schNext_of_due hp hs hin hdue, ?_⟩
      rw [if_neg Bool.false_ne_true, if_neg fun hnone => hnone j hj hsp ⟨hocc, hrun⟩]
      refine ⟨j, hj, hsp, hocc, hrun, hlowest, answers_respond hready rfl rfl,
        onlySlot_respond ⟨_, rfl⟩ fun i hne => ?_, ?_, hnext, rfl, hhandle⟩
      · rw [slotAt_handOut i hlen, if_neg hne]
      · rw [slotAt_respond, slotAt_handOut j hlen, if_pos rfl]

/-- Settles O39, by what `finish` makes of the slots and of the scan (`slotAt_finish`, `finish_scan`). -/
theorem schDoneEndsTheRun : Obligations.SchDoneEndsTheRun := by
  intro s h hready hp hs
  refine ⟨_, exec_schDone_eq hp hs, ?_⟩
  split_ifs with hrange hseq hperiod
  · exact onlyAnswers_fail hready
  · exact onlyAnswers_fail hready
  all_goals
    have hlen : h.toNat < s.sch.slots.length := slots_length hready hs ▸ Nat.lt_of_not_le hrange
    obtain ⟨hflight, hsp, hhandle⟩ := finish_scan h.toNat s
    refine ⟨answers_respond hready (finish_result ..) (finish_port ..),
      onlySlot_respond (finish_eq ..) fun i hne => ?_, hflight, hsp, hhandle, ?_⟩
    · rw [slotAt_finish i hlen, if_neg fun hi => hne hi.1]
    · exact (slotAt_finish _ hlen).trans (by simp [hperiod, Slot.empty])

/-- Settles O40, by the equation of SCH_RDSLOT and the selectors of R156 (`slotField_eq`). -/
theorem schRdslotReadsOneField : Obligations.SchRdslotReadsOneField := by
  intro s h sel hready hp hs
  refine ⟨_, exec_schRdslot_eq hp hs, ?_⟩
  rw [slotField_eq]
  split_ifs
  · exact onlyAnswers_fail hready
  all_goals exact onlyAnswers_respond hready

/-- Settles O41: the event is `tickAll`, which ticks every slot (`slotsTicked_tickAll`). -/
theorem tickCountsEverySlot : Obligations.TickCountsEverySlot := by
  intro s rest hready hs htimer hinbox
  have hexists : tickInputExists s.cfg = true := by rw [tickInputExists, hs, htimer]; rfl
  have hstep : step s = ifEnabled (tickInputExists s.cfg) .tick (tickAll (s.withInbox rest)) :=
    step_of_inbox hready.1 hinbox
  rw [hexists, ifEnabled_true] at hstep
  exact ⟨_, hstep, rfl, slotsTicked_tickAll _⟩

/-! ### Due times (R159)

With `q = max p 1`, a tick counts `ticksToGain d q n` down, or reloads it and adds one to `runsGained d q n`
(`counts_of_no_gain`, `counts_of_gain`). `TaskAfter` ties both to the delay and the run-count of a slot. -/

section DueTimes

/-- How many ticks pass after the `n`-th before the one at which the task gains its next run. -/
def ticksToGain (d q n : Nat) : Nat := if n < d then d - 1 - n else q - 1 - (n - d) % q

/-- How many of the ticks d, d + q, d + 2q, ... are among the first `n`. -/
def runsGained (d q n : Nat) : Nat := if n < d then 0 else (n - d) / q + 1

section Counts

variable {d q n m : Nat}

theorem succ_div_mod_of_last (hq : 0 < q) (h : m % q + 1 = q) : (m + 1) / q = m / q + 1 ∧ (m + 1) % q = 0 := by
  rw [Nat.div_mod_unique hq, Nat.mul_add, Nat.mul_one]
  have := Nat.mod_add_div m q
  omega

theorem succ_div_mod_of_not_last (hq : 0 < q) (h : m % q + 1 ≠ q) :
    (m + 1) / q = m / q ∧ (m + 1) % q = m % q + 1 := by
  rw [Nat.div_mod_unique hq]
  have := Nat.mod_add_div m q
  have := Nat.mod_lt m hq
  omega

theorem counts_of_gain (hq : 0 < q) (h : ticksToGain d q n = 0) :
    ticksToGain d q (n + 1) = q - 1 ∧ runsGained d q (n + 1) = runsGained d q n + 1 := by
  unfold ticksToGain runsGained at *
  by_cases hn : n < d
  · have hlast : n + 1 = d := by simp only [hn, if_true] at h; omega
    simp [hn, hlast]
  · have hnext : n + 1 - d = n - d + 1 := by omega
    have hlt := Nat.mod_lt (n - d) hq
    obtain ⟨hdiv, hmod⟩ := succ_div_mod_of_last (m := n - d) hq (by simp only [hn, if_false] at h; omega)
    simp [hn, hnext, hdiv, hmod, show ¬ n + 1 < d by omega]

theorem counts_of_no_gain (hq : 0 < q) (h : ticksToGain d q n ≠ 0) :
    ticksToGain d q (n + 1) = ticksToGain d q n - 1 ∧ runsGained d q (n + 1) = runsGained d q n := by
  unfold ticksToGain runsGained at *
  by_cases hn : n < d
  · have hnext : n + 1 < d := by simp only [hn, if_true] at h; omega
    simp only [hn, hnext, if_true, and_true]
    omega
  · have hnext : n + 1 - d = n - d + 1 := by omega
    obtain ⟨hdiv, hmod⟩ := succ_div_mod_of_not_last (m := n - d) hq (by simp only [hn, if_false] at h; omega)
    simp only [hn, show ¬ n + 1 < d by omega, hnext, hdiv, hmod, if_false, and_true]
    omega

end Counts

variable {d p : BitVec 12} {n : Nat} {x : Slot}

theorem tickSlot_of_gain (hocc : x.occ = true) (hdelay : x.delay = 0#12) :
    (tickSlot x).delay.toNat = max x.period.toNat 1 - 1 ∧
      (tickSlot x).run.toNat = min (x.run.toNat + 1) 255 := by
  rw [tickSlot, if_pos hocc, if_pos hdelay]
  refine ⟨?_, Nat.mod_eq_of_lt (by omega)⟩
  split
  next hp => simp [hdelay, hp]
  next hp => bv_omega

theorem tickSlot_of_no_gain (hocc : x.occ = true) (hdelay : x.delay ≠ 0#12) :
    (tickSlot x).delay.toNat = x.delay.toNat - 1 ∧ (tickSlot x).run = x.run := by
  rw [tickSlot, if_pos hocc, if_neg hdelay]
  exact ⟨by bv_omega, rfl⟩

/-- The slot is as a task (d, p) is `n` ticks after SCH_ADD with no dispatch. -/
structure TaskAfter (d p : BitVec 12) (n : Nat) (x : Slot) : Prop where
  occ : x.occ = true
  period : x.period = p
  delay : x.delay.toNat = ticksToGain d.toNat (max p.toNat 1) n
  run : x.run.toNat = min (runsGained d.toNat (max p.toNat 1) n) 255

/-- A task with delay 0 has gained its first run at once and reloaded its delay (R151). -/
theorem taskAfter_newTask (d p : BitVec 12) : TaskAfter d p 0 (newTask d p) := by
  by_cases hd : d = 0#12
  · have hdelay : (if p = 0#12 then 0#12 else p - 1#12).toNat = max p.toNat 1 - 1 := by
      split
      next hp => simp [hp]
      next hp => bv_omega
    simp only [newTask, if_pos hd]
    constructor <;> simp [hd, ticksToGain, runsGained, hdelay]
  · have hpos : 0 < d.toNat := by bv_omega
    have hdelay : (d - 1#12).toNat = d.toNat - 1 := by bv_omega
    simp only [newTask, if_neg hd]
    constructor <;> simp [hpos, ticksToGain, runsGained, hdelay]

theorem TaskAfter.tick (h : TaskAfter d p n x) : TaskAfter d p (n + 1) (tickSlot x) := by
  obtain ⟨hocc, hperiod, hdelay, hrun⟩ := h
  have hq : 0 < max p.toNat 1 := by omega
  have hocc' : (tickSlot x).occ = true := (tickSlot_occ x).trans hocc
  have hperiod' : (tickSlot x).period = p := (tickSlot_period x).trans hperiod
  by_cases hzero : x.delay = 0#12
  · obtain ⟨hticks, hruns⟩ := counts_of_gain hq (hdelay.symm.trans (congrArg BitVec.toNat hzero))
    obtain ⟨hdelay', hrun'⟩ := tickSlot_of_gain hocc hzero
    exact ⟨hocc', hperiod', by rw [hdelay', hperiod, hticks], by rw [hrun', hrun, hruns]; omega⟩
  · obtain ⟨hticks, hruns⟩ := counts_of_no_gain (n := n) hq fun h => hzero (BitVec.eq_of_toNat_eq (hdelay.trans h))
    obtain ⟨hdelay', hrun'⟩ := tickSlot_of_no_gain hocc hzero
    exact ⟨hocc', hperiod', by rw [hdelay', hdelay, hticks], by rw [hrun', hrun, hruns]⟩

theorem taskAfter_iterate (d p : BitVec 12) (n : Nat) : TaskAfter d p n (tickSlot^[n] (newTask d p)) := by
  induction n with
  | zero => exact taskAfter_newTask d p
  | succ n ih =>
    rw [Function.iterate_succ_apply']
    exact ih.tick

end DueTimes

/-- Settles O42: `TaskAfter` holds of the slot SCH_ADD fills and every tick carries it on. -/
theorem taskGainsRunsAtItsTicks : Obligations.TaskGainsRunsAtItsTicks := by
  intro d p n x
  obtain ⟨hocc, hperiod, -, hrun⟩ := taskAfter_iterate d p n
  refine ⟨hocc, hperiod, hrun.trans ?_⟩
  rw [runsGained]
  split
  next => rfl
  next => rfl

/-! ### The timer's period (R160) -/

section TimerPeriod

variable {s : State}

theorem timerClock_iterate_of_le (hen : s.tmr.en = true) {m : Nat} (hm : m ≤ s.tmr.count.toNat) :
    timerClock^[m] s = s.withTmr { s.tmr with count := s.tmr.count - BitVec.ofNat 16 m } := by
  induction m with
  | zero => rw [Function.iterate_zero_apply, BitVec.sub_zero]; rfl
  | succ m ih =>
    have hcount : s.tmr.count - BitVec.ofNat 16 m ≠ 0#16 := by bv_omega
    have hnext : s.tmr.count - BitVec.ofNat 16 m - 1#16 = s.tmr.count - BitVec.ofNat 16 (m + 1) := by bv_omega
    rw [Function.iterate_succ_apply', ih (Nat.le_of_succ_le hm)]
    refine Eq.trans (timerClock_of_counting ?_ ?_) ?_
    · exact hen
    · exact hcount
    · simp only [withTmr_tmr, withTmr_withTmr, hnext]

end TimerPeriod

/-- Settles O43: after as many cycles as `count` says the counter is 0, so the next cycle is the expiry. -/
theorem timerTicksOncePerPeriod : Obligations.TimerTicksOncePerPeriod := by
  intro s m hen hm
  refine ⟨timerClock_iterate_of_le hen hm, ?_⟩
  have hzero : s.tmr.count - BitVec.ofNat 16 s.tmr.count.toNat = 0#16 := by simp
  rw [Function.iterate_succ_apply', timerClock_iterate_of_le hen le_rfl, hzero]
  exact timerClock_of_expired (s := s.withTmr { s.tmr with count := 0#16 }) hen rfl

end Sys2Proof.Machine

/-! ## The service table: its invariants, its scan and its commands, one rule each

Settled here: O57, O16, O20, O17, O18, O19, O21 and O22. First what one service port must meet and which effects keep
it; then what the scan chooses and what an update of one service port leaves alone; then, for each command, the equation
of `exec` on a port operand that is in range. -/

namespace Sys2Proof.Machine

section ServiceScan

variable {s : State} {i : Nat}

/-! ### The scan of SVC_NEXT (R186) -/

theorem nextPending_eq_none_iff :
    nextPending s = none ↔ ∀ j < s.cfg.portCount, s.ssp.toNat ≤ j → (svcAt s j).pending = false := by
  simp only [nextPending, lowest_eq_none_iff, Bool.and_eq_false_imp, decide_eq_true_iff]

theorem nextPending_eq_some_iff :
    nextPending s = some i ↔
      i < s.cfg.portCount ∧ s.ssp.toNat ≤ i ∧ (svcAt s i).pending = true ∧
        ∀ j < i, s.ssp.toNat ≤ j → (svcAt s j).pending = false := by
  simp only [nextPending, lowest_eq_some_iff, Bool.and_eq_true, Bool.and_eq_false_imp, decide_eq_true_iff, and_assoc]

/-- The position past a port fits the scan register: PORT_COUNT is at most 16 (R7, R36). -/
theorem toNat_scanPast {c : Cfg} (hw : c.wf = true) (hi : i < c.portCount) :
    (BitVec.ofNat 5 (i + 1)).toNat = i + 1 := by
  have := portCount_le hw
  exact Nat.mod_eq_of_lt (by omega)

end ServiceScan

/-! ### What every step keeps of the service table (R191) -/

section ServiceInvariants

variable {s t u : State} {i : Nat} {p : SvcPort}

/-- What R191 says of one service port. -/
def SvcPortOk (c : Cfg) (p : SvcPort) : Prop :=
  (p.pending = true → p.reg = true) ∧ (p.reg = false → p.plen = 0#8) ∧ p.plen.toNat ≤ c.maxLen.toNat - 1

theorem servicesOk_iff_svcPortOk :
    ServicesOk s ↔ s.ssp.toNat ≤ s.cfg.portCount ∧ ∀ i < s.cfg.portCount, SvcPortOk s.cfg (svcAt s i) := Iff.rfl

theorem servicesOk_congr (hcfg : t.cfg = s.cfg) (hssp : t.ssp = s.ssp) (hsvc : t.svc = s.svc) (h : ServicesOk s) :
    ServicesOk t := by
  rw [servicesOk_iff_svcPortOk, hcfg, hssp]
  simp only [svcAt_congr hcfg hsvc]
  exact h

/-- Replacing a service port by one that meets R191 keeps the invariants. -/
theorem servicesOk_setSvc (hi : i < s.svc.length) (hp : SvcPortOk s.cfg p) (h : ServicesOk s) :
    ServicesOk (setSvc i p s) := by
  obtain ⟨hssp, hports⟩ := h
  refine ⟨hssp, fun j hj => ?_⟩
  rw [svcAt_setSvc p j hi]
  split
  next => exact hp
  next => exact hports j hj

theorem ServiceEffect.servicesOk (h : ServiceEffect s u) (hw : s.cfg.wf = true)
    (hlen : s.svc.length = s.cfg.portCount) (hs : ServicesOk s) : ServicesOk u := by
  have ⟨_, hports⟩ := hs
  cases h with
  | register hi _ hn => exact servicesOk_setSvc (hlen ▸ hi) ⟨nofun, nofun, hn⟩ hs
  | delete hi => exact servicesOk_setSvc (hlen ▸ hi) ⟨nofun, fun _ => rfl, Nat.zero_le _⟩ hs
  | done v hi _ =>
    obtain ⟨-, hplen⟩ := hports _ hi
    exact servicesOk_setSvc (hlen ▸ hi) ⟨nofun, hplen⟩ hs
  | passEnd => exact ⟨Nat.zero_le _, hports⟩
  | next hnext =>
    obtain ⟨hi, -⟩ := nextPending_eq_some_iff.1 hnext
    exact ⟨(toNat_scanPast hw hi).symm ▸ hi, hports⟩

/-- No frame is committed to a port that has been deleted meanwhile (R220). -/
theorem rxChecksum_svc_of_unregistered (b : Byte) (h : (svcAt s s.fv.pidx.toNat).reg = false) :
    (rxChecksum b s).svc = s.svc := by
  unfold rxChecksum fvCommit
  dsimp only
  rw [if_pos h]
  split <;> rfl

theorem fvReceive_svc_of_unregistered (b : Byte) (h : (svcAt s s.fv.pidx.toNat).reg = false) :
    (fvReceive b s).svc = s.svc := by
  unfold fvReceive
  split
  · exact (rxHeader_keepsBuffer b s).svc
  · exact (rxHeader_keepsBuffer b s).svc
  · exact (rxHeader_keepsBuffer b s).svc
  · exact (rxLength_keepsBuffer b s).svc
  · exact (rxPort_keepsBuffer b s).svc
  · rfl
  · exact rxChecksum_svc_of_unregistered b h
  · rfl

theorem servicesOk_committed (hlen : s.svc.length = s.cfg.portCount) (hidx : s.fv.pidx.toNat < s.cfg.portCount)
    (hreg : (svcAt s s.fv.pidx.toNat).reg = true) (h : ServicesOk s) : ServicesOk (committed s) := by
  have ⟨_, hports⟩ := h
  obtain ⟨-, hplen⟩ := hports _ hidx
  exact servicesOk_congr (s := setSvc _ _ s) rfl rfl rfl
    (servicesOk_setSvc (hlen ▸ hidx) ⟨fun _ => hreg, hplen⟩ h)

/-- A received byte makes only a registered port pending (R220). -/
theorem servicesOk_fvReceive (b : Byte) (hlen : s.svc.length = s.cfg.portCount)
    (hidx : s.fv.pidx.toNat < s.cfg.portCount) (h : ServicesOk s) : ServicesOk (fvReceive b s) := by
  cases hreg : (svcAt s s.fv.pidx.toNat).reg with
  | false => exact servicesOk_congr (fvReceive_cfg b s) (fvReceive_ssp b s) (fvReceive_svc_of_unregistered b hreg) h
  | true =>
    obtain hsvc | ⟨-, hsvc⟩ := fvReceive_svc_cases b s
    · exact servicesOk_congr (fvReceive_cfg b s) (fvReceive_ssp b s) hsvc h
    · exact servicesOk_congr (s := committed s) (fvReceive_cfg b s) (fvReceive_ssp b s) hsvc
        (servicesOk_committed hlen hidx hreg h)

theorem Effect.servicesOk (h : Effect s u) (hw : s.cfg.wf = true) (hshape : Shaped s) (hparser : ParserOk s)
    (hs : ServicesOk s) : ServicesOk u := by
  obtain ⟨-, hlen, -⟩ := hshape
  cases h with
  | none => exact hs
  | ring h =>
    rw [h.frame]
    exact hs
  | service h => exact h.servicesOk hw hlen hs
  | parser h =>
    cases h with
    | receive b =>
      obtain ⟨-, hidx, -⟩ := hparser
      exact servicesOk_fvReceive b hlen hidx hs
    | transfer => exact servicesOk_congr (fvTransfer_cfg s) (fvTransfer_ssp s) (fvTransfer_svc s) hs
  | scheduler h =>
    rw [h.frame]
    exact hs

theorem servicesOk_resetOf (c : Cfg) : ServicesOk (State.resetOf c) :=
  ⟨Nat.zero_le _, fun i _ => (svcAt_resetOf c i).symm ▸ ⟨nofun, fun _ => rfl, Nat.zero_le _⟩⟩

/-- Settles O57: only the SVC commands and the commit of a frame touch the table, and each leaves a port that meets
R191; SVC_NEXT scans at most one past the last port. -/
theorem stepKeepsServiceInvariants : Obligations.StepKeepsServiceInvariants := fun _ _ hinv hstep =>
  step_establishes (Q := ServicesOk) (fun s _ => servicesOk_resetOf s.cfg)
    (fun ⟨hw, hshape, _, _, _, hservices, hparser, _⟩ heffect => heffect.servicesOk hw hshape hparser hservices)
    id hinv hstep

end ServiceInvariants

section ServiceRules

variable {s : State} {a x : Byte} {i : Nat}

/-! ### Updates of one service port -/

theorem lt_svc_length (h : Ready s) (hi : i < s.cfg.portCount) : i < s.svc.length := by
  obtain ⟨_, ⟨_, hsvc, _⟩, _⟩ := h
  exact hsvc.symm ▸ hi

/-- An update of service port `i` and the answer to it reach nothing else. -/
theorem onlyPort_respond_setSvc {rc : ResultCode} {data : Half} (p : SvcPort) (hi : i < s.svc.length) :
    OnlyPort i s (respond rc data (setSvc i p s)) :=
  ⟨rfl, fun j hne => by rw [svcAt_respond, svcAt_setSvc p j hi, if_neg hne]⟩

theorem svcAt_setSvc_self (p : SvcPort) (hi : i < s.svc.length) : svcAt (setSvc i p s) i = p := by
  rw [svcAt_setSvc p i hi, if_pos rfl]

/-! ### The port check (R180) -/

theorem svcIndex_eq_none_iff {c : Cfg} :
    svcIndex c a = none ↔ ¬ (c.portBase.toNat ≤ a.toNat ∧ a.toNat < c.portBase.toNat + c.portCount) := by
  rw [← isPortId_eq_false_iff, svcIndex, ite_eq_right_iff, imp_iff_not (Option.some_ne_none _), Bool.not_eq_true]

theorem ifLegal_onHost (hp : s.port = .host) (t : State) : ifLegal (onHost s) s t = .next t := by
  rw [onHost_eq_true_iff.2 hp, ifLegal_true]

/-- Every SVC command with a port operand begins with the port check. -/
theorem exec_eq_withSvcPort {c : Instr}
    (hc : c ∈ [Instr.svcReg a x, .svcDel a, .svcIsreg a, .svcPlen a, .svcRdparam a x, .svcDone a x, .svcResp a]) :
    ∃ act, exec c s = ifLegal (onHost s) s (withSvcPort a s act) := by
  simp only [List.mem_cons, List.not_mem_nil, or_false] at hc
  obtain rfl | rfl | rfl | rfl | rfl | rfl | rfl := hc <;> exact ⟨_, rfl⟩

theorem ifLegal_withSvcPort (hp : s.port = .host) (ha : svcIndex s.cfg a = some i) (act : Nat → State) :
    ifLegal (onHost s) s (withSvcPort a s act) = .next (act i) := by
  rw [ifLegal_onHost hp, withSvcPort_some act ha]

/-! ### The commands on HOST (R181 to R184, R186, R187, R189, R190) -/

theorem exec_svcReg_eq (hp : s.port = .host) (ha : svcIndex s.cfg a = some i) (n : Byte) :
    exec (.svcReg a n) s =
      .next
        (if (svcAt s i).reg = true then fail .alreadyRegistered s
        else if s.cfg.maxLen.toNat - 1 < n.toNat then fail .invalidLen s
        else
          respond .ok 0#16
            (setSvc i ⟨true, n, false, s.cfg.ws.unknown, List.replicate (s.cfg.maxLen.toNat - 1) 0#8⟩ s)) :=
  ifLegal_withSvcPort hp ha _

theorem exec_svcDel_eq (hp : s.port = .host) (ha : svcIndex s.cfg a = some i) :
    exec (.svcDel a) s =
      .next (respond .ok 0#16 (setSvc i { svcAt s i with reg := false, plen := 0#8, pending := false } s)) :=
  ifLegal_withSvcPort hp ha _

theorem exec_svcIsreg_eq (hp : s.port = .host) (ha : svcIndex s.cfg a = some i) :
    exec (.svcIsreg a) s = .next (respond .ok (bitData (svcAt s i).reg) s) := ifLegal_withSvcPort hp ha _

theorem exec_svcPlen_eq (hp : s.port = .host) (ha : svcIndex s.cfg a = some i) :
    exec (.svcPlen a) s = .next (respond .ok (zext16 (svcAt s i).plen) s) := ifLegal_withSvcPort hp ha _

theorem exec_svcResp_eq (hp : s.port = .host) (ha : svcIndex s.cfg a = some i) :
    exec (.svcResp a) s = .next (respond .ok (zext16 (svcAt s i).resp) s) := ifLegal_withSvcPort hp ha _

theorem exec_svcRdparam_eq (hp : s.port = .host) (ha : svcIndex s.cfg a = some i) (j : Byte) :
    exec (.svcRdparam a j) s =
      .next
        (if (svcAt s i).reg = false then fail .invalidService s
        else if (svcAt s i).plen.toNat ≤ j.toNat then fail .invalidIndex s
        else respond .ok (zext16 ((svcAt s i).param.getD j.toNat 0#8)) s) := ifLegal_withSvcPort hp ha _

theorem exec_svcDone_eq (hp : s.port = .host) (ha : svcIndex s.cfg a = some i) (v : Byte) :
    exec (.svcDone a v) s =
      .next
        (if (svcAt s i).pending = false then fail .seqError s
        else respond .ok 0#16 (setSvc i { svcAt s i with resp := v, pending := false } s)) :=
  ifLegal_withSvcPort hp ha _

theorem exec_svcNext_of_passEnd (hp : s.port = .host) (hnone : nextPending s = none) :
    exec .svcNext s = .next (fail .none (s.withSsp 0#5)) := by
  refine (ifLegal_onHost hp _).trans ?_
  rw [hnone]

theorem exec_svcNext_of_pending (hp : s.port = .host) (hnext : nextPending s = some i) :
    exec .svcNext s =
      .next (respond .ok (dataOf (s.cfg.portBase.toNat + i)) (s.withSsp (BitVec.ofNat 5 (i + 1)))) := by
  refine (ifLegal_onHost hp _).trans ?_
  rw [hnext]

end ServiceRules

/-- Settles O16: each of the seven commands begins with the port check, which fails. -/
theorem portIdOutOfRangeIsRefused : Obligations.PortIdOutOfRangeIsRefused := by
  intro s a x hready hp hrange c hc
  obtain ⟨act, hexec⟩ := exec_eq_withSvcPort (s := s) hc
  rw [hexec, ifLegal_onHost hp, withSvcPort_none act (svcIndex_eq_none_iff.2 hrange)]
  exact ⟨_, rfl, onlyAnswers_fail hready⟩

/-- Settles O20, by `nextPending_eq_some_iff`: the port handed out is the lowest pending one from the scan
position on. -/
theorem svcNextScansInPortOrder : Obligations.SvcNextScansInPortOrder := by
  intro s hready hp
  cases hnext : nextPending s with
  | none =>
    refine ⟨_, exec_svcNext_of_passEnd hp hnext, rfl, ?_⟩
    rw [if_pos (nextPending_eq_none_iff.1 hnext)]
    exact ⟨answers_respond hready rfl rfl, rfl⟩
  | some i =>
    obtain ⟨hi, hssp, hpending, hlowest⟩ := nextPending_eq_some_iff.1 hnext
    refine ⟨_, exec_svcNext_of_pending hp hnext, rfl, ?_⟩
    rw [if_neg fun hnone => Bool.false_ne_true ((hnone i hi hssp).symm.trans hpending)]
    exact ⟨i, hi, hssp, hpending, hlowest, toNat_scanPast hready.1 hi, answers_respond hready rfl rfl⟩

/-- Settles O17, by the equation of SVC_REG: the entry written has every parameter byte 0. -/
theorem svcRegRegisters : Obligations.SvcRegRegisters := by
  intro s a n i hready hp hi ha
  refine ⟨_, exec_svcReg_eq hp (svcIndex_of_toNat hi ha) n, ?_⟩
  split_ifs with hreg hn
  · exact onlyAnswers_fail hready
  · exact onlyAnswers_fail hready
  · have hlen := lt_svc_length hready hi
    refine ⟨answers_respond hready rfl rfl, onlyPort_respond_setSvc _ hlen, ?_⟩
    rw [svcAt_respond, svcAt_setSvc_self _ hlen]
    refine ⟨rfl, rfl, rfl, rfl, List.length_replicate, fun j => ?_⟩
    rw [List.getD_eq_getElem?_getD, List.getElem?_getD_replicate_default_eq]

/-- Settles O18, by the equation of SVC_DEL. -/
theorem svcDelClears : Obligations.SvcDelClears := by
  intro s a i hready hp hi ha
  have hlen := lt_svc_length hready hi
  exact ⟨_, exec_svcDel_eq hp (svcIndex_of_toNat hi ha), answers_respond hready rfl rfl,
    onlyPort_respond_setSvc _ hlen, svcAt_setSvc_self _ hlen⟩

/-- Settles O19, by the equations of the three queries. -/
theorem svcQueriesReadTheTable : Obligations.SvcQueriesReadTheTable := by
  intro s a i hready hp hi ha
  have hidx := svcIndex_of_toNat hi ha
  exact ⟨⟨_, exec_svcIsreg_eq hp hidx, onlyAnswers_respond hready⟩,
    ⟨_, exec_svcPlen_eq hp hidx, onlyAnswers_respond hready⟩,
    ⟨_, exec_svcResp_eq hp hidx, onlyAnswers_respond hready⟩⟩

/-- Settles O21, by the equation of SVC_RDPARAM. -/
theorem svcRdparamReadsOneByte : Obligations.SvcRdparamReadsOneByte := by
  intro s a j i hready hp hi ha
  refine ⟨_, exec_svcRdparam_eq hp (svcIndex_of_toNat hi ha) j, ?_⟩
  split_ifs
  · exact onlyAnswers_fail hready
  · exact onlyAnswers_fail hready
  · exact onlyAnswers_respond hready

/-- Settles O22, by the equation of SVC_DONE. -/
theorem svcDoneStoresResponse : Obligations.SvcDoneStoresResponse := by
  intro s a v i hready hp hi ha
  refine ⟨_, exec_svcDone_eq hp (svcIndex_of_toNat hi ha) v, ?_⟩
  split_ifs
  · exact onlyAnswers_fail hready
  · have hlen := lt_svc_length hready hi
    exact ⟨answers_respond hready rfl rfl, onlyPort_respond_setSvc _ hlen, svcAt_setSvc_self _ hlen⟩

end Sys2Proof.Machine

/-! ## The frame validator: the parser's rules, the CRC, and whole frames

Settled here: O24 to O35. First the CRC; then, for each parser state, the equation of its rule in each of its cases;
then what leaves BAD_FRAME; then what the bytes of a whole frame make of the parser. -/

namespace Sys2Proof.Machine

/-! ### The CRC (R211, R212)

The polynomial 0x9B is odd, so a round can be undone: its lowest bit is the bit the shift dropped. All of R212 rests
on this. -/

section Crc

variable {b c : Byte}

theorem getLsbD_zero_crc8Round (c : Byte) : (crc8Round c).getLsbD 0 = c.getLsbD 7 := by
  unfold crc8Round
  split
  next h => simp [h]
  next h => simp_all

theorem crc8Round_injective : Function.Injective crc8Round := by
  intro b c h
  have htop : b.getLsbD 7 = c.getLsbD 7 := by
    rw [← getLsbD_zero_crc8Round, h, getLsbD_zero_crc8Round]
  have hshift : b <<< 1 = c <<< 1 := by
    unfold crc8Round at h
    rw [htop] at h
    split at h
    next => exact BitVec.xor_left_inj _ |>.1 h
    next => exact h
  refine BitVec.eq_of_getLsbD_eq fun i hi => ?_
  by_cases hlast : i = 7
  · rw [hlast, htop]
  · have hbit := congrArg (BitVec.getLsbD · (i + 1)) hshift
    simpa [show i + 1 < 8 by omega, hi] using hbit

theorem crc8Step_eq_iterate (c b : Byte) : crc8Step c b = crc8Round^[8] (c ^^^ b) := rfl

theorem crc8Step_eq_crc8Step_iff {c' b' : Byte} : crc8Step c b = crc8Step c' b' ↔ c ^^^ b = c' ^^^ b' :=
  (crc8Round_injective.iterate 8).eq_iff

theorem crc8Step_eq_zero_iff : crc8Step c b = 0#8 ↔ c = b := by
  have hround : crc8Round 0#8 = 0#8 := rfl
  have hzero : crc8Step 0#8 0#8 = 0#8 := Function.iterate_fixed hround 8
  rw [← hzero, crc8Step_eq_crc8Step_iff, BitVec.xor_self, BitVec.xor_eq_zero_iff]

theorem foldl_crc8Step_injective (bs : List Byte) : Function.Injective (bs.foldl crc8Step) := by
  induction bs with
  | nil => exact Function.injective_id
  | cons b bs ih => exact fun c c' h => BitVec.xor_left_inj b |>.1 (crc8Step_eq_crc8Step_iff.1 (ih h))

/-- Settles O32: a last byte brings the CRC to 0 exactly when it cancels it before the rounds. -/
theorem crcResidueIsZero : Obligations.CrcResidueIsZero := by
  refine ⟨crc8Step_eq_iterate, rfl, crc8_concat, by decide +kernel, fun m c => ?_⟩
  rw [crc8_concat, crc8Step_eq_zero_iff, eq_comm]

/-- Settles O33: the bytes before agree, the changed byte separates the CRCs, and the bytes after keep them apart. -/
theorem crcDetectsOneChangedByte : Obligations.CrcDetectsOneChangedByte := by
  intro xs ys b b' hne hgood hchanged
  rw [crc8_append] at hgood hchanged
  have hsame : crc8Step (crc8 xs) b = crc8Step (crc8 xs) b' := foldl_crc8Step_injective ys (hgood.trans hchanged.symm)
  exact hne (BitVec.xor_right_inj _ |>.1 (crc8Step_eq_crc8Step_iff.1 hsame))

end Crc

/-! ### The FV commands on TRANSPORT (R105, R213, R222, R223) -/

section ParserRules

variable {s : State} {b : Byte} {i : Nat} {fv : Fv}

theorem ifLegal_onTransport (hp : s.port = .transport) (t : State) : ifLegal (onTransport s) s t = .next t := by
  rw [onTransport_eq_true_iff.2 hp, ifLegal_true]

theorem exec_fvRx_eq (hp : s.port = .transport) (b : Byte) :
    exec (.fvRx b) s = .next (respond .ok 0#16 (fvReceive b s)) := ifLegal_onTransport hp _

theorem exec_fvTx_eq (hp : s.port = .transport) :
    exec .fvTx s = .next (respond .ok (zext16 (fvTxByte s)) s) := ifLegal_onTransport hp _

theorem exec_fvXfer_eq (hp : s.port = .transport) :
    exec .fvXfer s = .next (respond .ok 0#16 (fvTransfer s)) := ifLegal_onTransport hp _

/-- A command whose effect is on the parser alone, in the words of the statements. -/
theorem onlyParser_of_exec {c : Instr} (hready : Ready s)
    (h : exec c s = .next (respond .ok 0#16 (s.withFv fv))) :
    ∃ t, exec c s = .next t ∧ Answers .ok 0#16 s t ∧ OnlyParser s t ∧ t.fv = fv :=
  ⟨_, h, answers_respond hready rfl rfl, rfl, rfl⟩

theorem fvRx_onlyParser (hready : Ready s) (hp : s.port = .transport) (h : fvReceive b s = s.withFv fv) :
    ∃ t, exec (.fvRx b) s = .next t ∧ Answers .ok 0#16 s t ∧ OnlyParser s t ∧ t.fv = fv :=
  onlyParser_of_exec hready (h ▸ exec_fvRx_eq hp b)

theorem fvXfer_onlyParser (hready : Ready s) (hp : s.port = .transport) (h : fvTransfer s = s.withFv fv) :
    ∃ t, exec .fvXfer s = .next t ∧ Answers .ok 0#16 s t ∧ OnlyParser s t ∧ t.fv = fv :=
  onlyParser_of_exec hready (h ▸ exec_fvXfer_eq hp)

/-! ### Which rule a received byte is subject to (R213, R219) -/

theorem fvReceive_of_header (hst : s.fv.st = .header ∨ s.fv.st = .portQuery ∨ s.fv.st = .statusQuery) :
    fvReceive b s = rxHeader b s := by
  obtain hst | hst | hst := hst <;> rw [fvReceive, hst]

theorem fvReceive_of_length (hst : s.fv.st = .length) : fvReceive b s = rxLength b s := by
  rw [fvReceive, hst]

theorem fvReceive_of_port (hst : s.fv.st = .port) : fvReceive b s = rxPort b s := by
  rw [fvReceive, hst]

theorem fvReceive_of_data (hst : s.fv.st = .data) : fvReceive b s = rxData b s := by
  rw [fvReceive, hst]

theorem fvReceive_of_checksum (hst : s.fv.st = .checksum) : fvReceive b s = rxChecksum b s := by
  rw [fvReceive, hst]

theorem fvReceive_of_badFrame (hst : s.fv.st = .badFrame) : fvReceive b s = s := by
  rw [fvReceive, hst]

/-! ### HEADER and the query states (R214) -/

theorem rxHeader_of_svcHeader (h : b = s.cfg.svcHeader) :
    rxHeader b s = s.withFv { s.fv with crc := crc8Step 0xFF#8 b, len := 0#8, cnt := 0#8, st := .length } :=
  if_pos h

theorem rxHeader_of_statusHeader (hsvc : b ≠ s.cfg.svcHeader) (h : b = s.cfg.statusHeader) :
    rxHeader b s = fvGoto .statusQuery s := (if_neg hsvc).trans (if_pos h)

theorem rxHeader_of_registered (hsvc : b ≠ s.cfg.svcHeader) (hstatus : b ≠ s.cfg.statusHeader)
    (hidx : svcIndex s.cfg b = some i) (hreg : (svcAt s i).reg = true) :
    rxHeader b s = s.withFv { s.fv with qport := BitVec.ofNat 4 i, st := .portQuery } := by
  rw [rxHeader, if_neg hsvc, if_neg hstatus, hidx]
  exact if_pos hreg

/-- Any other byte, the ID of an unregistered port included, is a header error. -/
theorem rxHeader_of_unknown (hsvc : b ≠ s.cfg.svcHeader) (hstatus : b ≠ s.cfg.statusHeader)
    (hnone : ∀ i, svcIndex s.cfg b = some i → (svcAt s i).reg ≠ true) :
    rxHeader b s = fvEnd s.cfg.ws.headerErr .badFrame s := by
  rw [rxHeader, if_neg hsvc, if_neg hstatus]
  cases hidx : svcIndex s.cfg b with
  | none => rfl
  | some i => exact if_neg (hnone i hidx)

/-! ### LENGTH and PORT (R215, R216) -/

theorem rxLength_of_illegal (h : b = 0#8 ∨ s.cfg.maxLen.toNat < b.toNat) :
    rxLength b s = fvEnd s.cfg.ws.sizeErr .badFrame (fvCrc b s) := if_pos h

theorem rxLength_of_legal (h : ¬ (b = 0#8 ∨ s.cfg.maxLen.toNat < b.toNat)) :
    rxLength b s = s.withFv { s.fv with crc := crc8Step s.fv.crc b, len := b, st := .port } := if_neg h

theorem rxPort_of_outOfRange (hidx : svcIndex s.cfg b = none) :
    rxPort b s = fvEnd s.cfg.ws.portErr .badFrame (fvCrc b s) := by
  rw [rxPort, hidx]

theorem rxPort_of_unregistered (hidx : svcIndex s.cfg b = some i) (hreg : (svcAt s i).reg = false) :
    rxPort b s = fvEnd s.cfg.ws.serviceErr .badFrame (fvCrc b s) := by
  rw [rxPort, hidx]
  exact if_pos hreg

theorem rxPort_of_wrongLength (hidx : svcIndex s.cfg b = some i) (hreg : (svcAt s i).reg ≠ false)
    (hlen : (svcAt s i).plen ≠ s.fv.len - 1#8) : rxPort b s = fvEnd s.cfg.ws.paramErr .badFrame (fvCrc b s) := by
  rw [rxPort, hidx]
  exact (if_neg hreg).trans (if_pos hlen)

theorem rxPort_of_match (hidx : svcIndex s.cfg b = some i) (hreg : (svcAt s i).reg ≠ false)
    (hlen : (svcAt s i).plen = s.fv.len - 1#8) :
    rxPort b s =
      s.withFv { s.fv with
        crc := crc8Step s.fv.crc b
        pidx := BitVec.ofNat 4 i
        cnt := 0#8
        st := if s.fv.len = 1#8 then .checksum else .data } := by
  rw [rxPort, hidx]
  exact (if_neg hreg).trans (if_neg (not_not.2 hlen))

/-! ### DATA (R217) -/

theorem rxData_of_data (hst : s.fv.st = .data) :
    rxData b s =
      s.withFv { s.fv with
        fbuf := storeSet s.fv.fbuf s.fv.cnt.toNat b
        crc := crc8Step s.fv.crc b
        cnt := s.fv.cnt + 1#8
        st := if s.fv.cnt + 1#8 = s.fv.len - 1#8 then .checksum else .data } := by
  rw [rxData, hst]

/-! ### CHECKSUM and the commit (R218, R220) -/

theorem rxChecksum_of_wrong (h : b ≠ s.fv.crc) : rxChecksum b s = fvEnd s.cfg.ws.checksumErr .badFrame s :=
  if_pos h

theorem rxChecksum_of_right (h : b = s.fv.crc) : rxChecksum b s = fvCommit s := if_neg (not_not.2 h)

theorem fvCommit_of_unregistered (hreg : (svcAt s s.fv.pidx.toNat).reg = false) :
    fvCommit s = fvEnd s.cfg.ws.serviceErr .badFrame s := if_pos hreg

theorem fvCommit_of_wrongLength (hreg : (svcAt s s.fv.pidx.toNat).reg ≠ false)
    (hlen : (svcAt s s.fv.pidx.toNat).plen ≠ s.fv.len - 1#8) :
    fvCommit s = fvEnd s.cfg.ws.paramErr .badFrame s := (if_neg hreg).trans (if_pos hlen)

theorem fvCommit_of_pending (hreg : (svcAt s s.fv.pidx.toNat).reg ≠ false)
    (hlen : (svcAt s s.fv.pidx.toNat).plen = s.fv.len - 1#8)
    (hpending : (svcAt s s.fv.pidx.toNat).pending = true) : fvCommit s = fvEnd s.cfg.ws.busy .header s :=
  (if_neg hreg).trans ((if_neg (not_not.2 hlen)).trans (if_pos hpending))

theorem fvCommit_of_free (hreg : (svcAt s s.fv.pidx.toNat).reg ≠ false)
    (hlen : (svcAt s s.fv.pidx.toNat).plen = s.fv.len - 1#8)
    (hfree : (svcAt s s.fv.pidx.toNat).pending ≠ true) : fvCommit s = committed s :=
  (if_neg hreg).trans ((if_neg (not_not.2 hlen)).trans (if_neg hfree))

/-- A frame is committed, or the service table stays (R220). -/
theorem fvCommit_cases (s : State) : fvCommit s = committed s ∨ (fvCommit s).svc = s.svc := by
  by_cases hreg : (svcAt s s.fv.pidx.toNat).reg = false
  · exact .inr (by rw [fvCommit_of_unregistered hreg]; rfl)
  by_cases hlen : (svcAt s s.fv.pidx.toNat).plen = s.fv.len - 1#8
  · by_cases hpending : (svcAt s s.fv.pidx.toNat).pending = true
    · exact .inr (by rw [fvCommit_of_pending hreg hlen hpending]; rfl)
    · exact .inl (fvCommit_of_free hreg hlen hpending)
  · exact .inr (by rw [fvCommit_of_wrongLength hreg hlen]; rfl)

theorem svcAt_setSvc_of_ne {j : Nat} (p : SvcPort) (hne : j ≠ i) : svcAt (setSvc i p s) j = svcAt s j := by
  simp only [svcAt, setSvc, withSvc_svc, withSvc_cfg, List.getD_eq_getElem?_getD, List.getElem?_set_ne hne.symm]

theorem svcAt_committed_of_ne {j : Nat} (hne : j ≠ s.fv.pidx.toNat) : svcAt (committed s) j = svcAt s j :=
  svcAt_setSvc_of_ne _ hne

theorem svcAt_committed_self (hlt : s.fv.pidx.toNat < s.svc.length) :
    svcAt (committed s) s.fv.pidx.toNat =
      { svcAt s s.fv.pidx.toNat with
        param := commitParam (s.fv.len - 1#8).toNat s (svcAt s s.fv.pidx.toNat).param, pending := true } :=
  svcAt_setSvc_self _ hlt

end ParserRules

/-- Settles O24: the four cases of `rxHeader`; a port index fits `qport`. -/
theorem rxInHeaderStates : Obligations.RxInHeaderStates := by
  intro s b hready hp hst
  have hrx : fvReceive b s = rxHeader b s := fvReceive_of_header hst
  split_ifs with hsvc hstatus hport
  · exact fvRx_onlyParser hready hp (hrx.trans (rxHeader_of_svcHeader hsvc))
  · exact fvRx_onlyParser hready hp (hrx.trans (rxHeader_of_statusHeader hsvc hstatus))
  · obtain ⟨hlow, hhigh, hreg⟩ := hport
    have hidx := svcIndex_eq_some_iff.2 ⟨hlow, hhigh, rfl⟩
    obtain ⟨t, hexec, hanswers, honly, hfv⟩ :=
      fvRx_onlyParser hready hp (hrx.trans (rxHeader_of_registered hsvc hstatus hidx hreg))
    exact ⟨t, hexec, hanswers, honly, hfv, by rw [hfv]; exact toNat_svcIndex hready.1 hidx⟩
  · refine fvRx_onlyParser hready hp (hrx.trans (rxHeader_of_unknown hsvc hstatus fun i hidx hreg => hport ?_))
    obtain ⟨hlow, hhigh, rfl⟩ := svcIndex_eq_some_iff.1 hidx
    exact ⟨hlow, hhigh, hreg⟩

/-- Settles O25: the two cases of `rxLength`. -/
theorem rxInLength : Obligations.RxInLength := by
  intro s b hready hp hst
  have hrx : fvReceive b s = rxLength b s := fvReceive_of_length hst
  split_ifs with hbad
  · exact fvRx_onlyParser hready hp (hrx.trans (rxLength_of_illegal hbad))
  · exact fvRx_onlyParser hready hp (hrx.trans (rxLength_of_legal hbad))

/-- Settles O26: the four cases of `rxPort`, in the order of its checks; a port index fits `pidx`. -/
theorem rxInPort : Obligations.RxInPort := by
  intro s b hready hp hst
  have hrx : fvReceive b s = rxPort b s := fvReceive_of_port hst
  have hidx (h : s.cfg.portBase.toNat ≤ b.toNat ∧ b.toNat < s.cfg.portBase.toNat + s.cfg.portCount) :
      svcIndex s.cfg b = some (b.toNat - s.cfg.portBase.toNat) := svcIndex_eq_some_iff.2 ⟨h.1, h.2, rfl⟩
  dsimp only
  generalize hnext : (if s.fv.len = 1#8 then PState.checksum else .data) = next
  split_ifs with hrange hreg hlen
  · exact fvRx_onlyParser hready hp (hrx.trans (rxPort_of_unregistered (hidx hrange) hreg))
  · exact fvRx_onlyParser hready hp (hrx.trans (rxPort_of_wrongLength (hidx hrange) hreg hlen))
  · obtain ⟨t, hexec, hanswers, honly, hfv⟩ :=
      fvRx_onlyParser hready hp (hrx.trans (hnext ▸ rxPort_of_match (hidx hrange) hreg (not_not.1 hlen)))
    exact ⟨t, hexec, hanswers, honly, hfv, by rw [hfv]; exact toNat_svcIndex hready.1 (hidx hrange)⟩
  · exact fvRx_onlyParser hready hp (hrx.trans (rxPort_of_outOfRange (svcIndex_eq_none_iff.2 hrange)))

/-- Settles O27, by `rxData_of_data`, and `fbufRead_rxData` for the bytes. -/
theorem rxInData : Obligations.RxInData := by
  intro s b hready hp hst
  have hrx : fvReceive b s = rxData b s := fvReceive_of_data hst
  refine ⟨respond .ok 0#16 (rxData b s), hrx ▸ exec_fvRx_eq hp b, answers_respond hready rfl rfl, rfl, ?_, ?_, ?_⟩
  · rw [respond_fv, rxData_of_data hst, withFv_fv]
  · rw [fbufRead_respond, fbufRead_rxData, if_pos rfl]
  · intro j hne
    rw [fbufRead_respond, fbufRead_rxData, if_neg hne]

/-- Settles O28: the five cases of `rxChecksum`, in the order of its checks. -/
theorem rxInChecksum : Obligations.RxInChecksum := by
  intro s b hready hp hst hpidx
  have hrx : fvReceive b s = rxChecksum b s := fvReceive_of_checksum hst
  dsimp only
  split_ifs with hcrc hreg hlen hpending
  · exact fvRx_onlyParser hready hp (hrx.trans (rxChecksum_of_wrong hcrc))
  all_goals have hcommit := hrx.trans (rxChecksum_of_right (not_not.1 hcrc))
  · exact fvRx_onlyParser hready hp (hcommit.trans (fvCommit_of_unregistered hreg))
  · exact fvRx_onlyParser hready hp (hcommit.trans (fvCommit_of_wrongLength hreg hlen))
  · exact fvRx_onlyParser hready hp (hcommit.trans (fvCommit_of_pending hreg (not_not.1 hlen) hpending))
  · have hgood : fvReceive b s = committed s := hcommit.trans (fvCommit_of_free hreg (not_not.1 hlen) hpending)
    have hentry := svcAt_committed_self (lt_svc_length hready hpidx)
    refine ⟨respond .ok 0#16 (committed s), hgood ▸ exec_fvRx_eq hp b, answers_respond hready rfl rfl, rfl, rfl,
      fun j hne => svcAt_committed_of_ne hne, ?_, fun j hj => ?_, fun j hj => ?_⟩
    · rw [svcAt_respond, hentry]
    · rw [svcAt_respond, hentry, commitParam_getD, if_pos hj]
    · rw [svcAt_respond, hentry, commitParam_getD, if_neg (Nat.not_lt.2 hj)]

/-! ### What writes the service table (R224) -/

section Acceptance

variable {s : State} {b : Byte}

/-- Only the right checksum byte of an accepted frame changes the service table (R218, R220). -/
theorem fvReceive_of_svc_ne (hne : (fvReceive b s).svc ≠ s.svc) :
    s.fv.st = .checksum ∧ b = s.fv.crc ∧ fvReceive b s = committed s := by
  cases hst : s.fv.st with
  | header => exact absurd (fvReceive_of_header (.inl hst) ▸ (rxHeader_keepsBuffer b s).svc) hne
  | portQuery => exact absurd (fvReceive_of_header (.inr (.inl hst)) ▸ (rxHeader_keepsBuffer b s).svc) hne
  | statusQuery => exact absurd (fvReceive_of_header (.inr (.inr hst)) ▸ (rxHeader_keepsBuffer b s).svc) hne
  | length => exact absurd (fvReceive_of_length hst ▸ (rxLength_keepsBuffer b s).svc) hne
  | port => exact absurd (fvReceive_of_port hst ▸ (rxPort_keepsBuffer b s).svc) hne
  | data => exact absurd (fvReceive_of_data hst ▸ rfl) hne
  | badFrame => exact absurd (congrArg State.svc (fvReceive_of_badFrame hst)) hne
  | checksum =>
    rw [fvReceive_of_checksum hst] at hne ⊢
    by_cases hcrc : b = s.fv.crc
    · rw [rxChecksum_of_right hcrc] at hne ⊢
      exact ⟨rfl, hcrc, (fvCommit_cases s).resolve_right hne⟩
    · exact absurd (rxChecksum_of_wrong hcrc ▸ rfl) hne

end Acceptance

/-- Settles O35: the byte committed a frame, and a commit writes port `pidx` alone. -/
theorem onlyGoodFramesWriteTheTable : Obligations.OnlyGoodFramesWriteTheTable := by
  intro s t b hexec hne
  obtain ⟨hlegal, rfl⟩ | ⟨-, rfl⟩ := ifLegal_next hexec
  · obtain ⟨hst, hcrc, hgood⟩ := fvReceive_of_svc_ne hne
    rw [hgood]
    exact ⟨onTransport_eq_true_iff.1 hlegal, hst, hcrc, rfl, rfl, fun j hj => svcAt_committed_of_ne hj⟩
  · exact absurd rfl hne

/-! ### FV_TX and FV_XFER (R222, R223), and what leaves BAD_FRAME (R219) -/

section Answering

variable {s t : State} {p : Port} {w : Word}

theorem fvTxByte_of_portQuery (hst : s.fv.st = .portQuery) : fvTxByte s = (svcAt s s.fv.qport.toNat).resp := by
  rw [fvTxByte, hst]

theorem fvTxByte_of_statusQuery (hst : s.fv.st = .statusQuery) : fvTxByte s = s.fv.fstatus := by
  rw [fvTxByte, hst]

theorem fvTxByte_of_no_query (hport : s.fv.st ≠ .portQuery) (hstatus : s.fv.st ≠ .statusQuery) :
    fvTxByte s = s.cfg.ws.unknown := by
  unfold fvTxByte
  split
  next hst => exact absurd hst hport
  next hst => exact absurd hst hstatus
  all_goals rfl

theorem fvTransfer_of_badFrame (hst : s.fv.st = .badFrame) : fvTransfer s = fvGoto .header s := by
  rw [fvTransfer, hst]

/-- Between frames a start or stop condition changes nothing. -/
theorem fvTransfer_of_idle (hst : s.fv.st = .header ∨ s.fv.st = .portQuery ∨ s.fv.st = .statusQuery) :
    fvTransfer s = s := by
  obtain hst | hst | hst := hst <;> rw [fvTransfer, hst]

/-- Inside a frame it cuts the frame short. -/
theorem fvTransfer_of_cut (hbad : s.fv.st ≠ .badFrame)
    (hidle : ¬ (s.fv.st = .header ∨ s.fv.st = .portQuery ∨ s.fv.st = .statusQuery)) :
    fvTransfer s = fvEnd s.cfg.ws.sizeErr .header s := by
  unfold fvTransfer
  split
  next hst => exact absurd hst hbad
  case h_6 hst => exact absurd (.inl hst) hidle
  case h_7 hst => exact absurd (.inr (.inl hst)) hidle
  case h_8 hst => exact absurd (.inr (.inr hst)) hidle
  all_goals rfl

/-- The one command that changes the parser in BAD_FRAME is FV_XFER, on TRANSPORT (R219). -/
theorem CommandEffect.eq_fvXfer_of_badFrame {c : Instr} {u : State} (h : CommandEffect s c u)
    (hst : s.fv.st = .badFrame) (hne : u.fv ≠ s.fv) : s.port = .transport ∧ c = .fvXfer := by
  obtain ⟨hp, ⟨b, rfl⟩ | rfl⟩ := h.fv hne
  · cases h with
    | none => exact absurd rfl hne
    | receive => exact absurd (congrArg State.fv (fvReceive_of_badFrame hst)) hne
  · exact ⟨hp, rfl⟩

theorem issue_leaves_badFrame (hst : s.fv.st = .badFrame) (h : issue p w s = .next t) (hne : t.fv ≠ s.fv) :
    p = .transport ∧ t.port = .transport ∧ w = 0x12000000#32 := by
  obtain ⟨-, ⟨i, hdecode, hexec⟩ | rfl⟩ := issue_next h
  · obtain ⟨u, rc, data, heffect, rfl⟩ := exec_ran hexec
    obtain ⟨hp, rfl⟩ := heffect.eq_fvXfer_of_badFrame hst hne
    exact ⟨hp, heffect.port.trans hp, (encode_of_decode hdecode).symm⟩
  · exact absurd rfl hne

theorem react_leaves_badFrame {x : Input} (hw : s.cfg.wf = true) (hst : s.fv.st = .badFrame)
    (h : react x s = .next t) (hne : t.fv ≠ s.fv) :
    x = .reset ∨
      (t.port = .transport ∧
        (x = .command .transport 0x12000000#32 ∨ x = .busWrite (cmdAddr s.cfg .transport) 4 0x12000000#32)) := by
  cases x with
  | command p w =>
    obtain ⟨rfl, hport, rfl⟩ := issue_leaves_badFrame hst h hne
    exact .inr ⟨hport, .inl rfl⟩
  | busWrite addr size data =>
    obtain ⟨r, rfl⟩ | ⟨p, rfl, rfl, hissue⟩ := busWrite_next_cases hw h
    · exact absurd rfl hne
    · obtain ⟨rfl, hport, rfl⟩ := issue_leaves_badFrame (s := s.withBus .done) hst hissue hne
      exact .inr ⟨hport, .inr rfl⟩
  | busRead addr size =>
    obtain ⟨r, rfl⟩ := busRead_next h
    exact absurd rfl hne
  | tick =>
    obtain ⟨-, rfl⟩ := ifEnabled_next h
    exact absurd rfl hne
  | tmrClk =>
    obtain ⟨hen, rfl⟩ := ifEnabled_next h
    have hframe := (SchedulerEffect.clock hen).frame
    exact absurd (congrArg State.fv hframe) hne
  | syncP k v =>
    obtain ⟨-, rfl⟩ := ifEnabled_next h
    exact absurd rfl hne
  | syncC k v =>
    obtain ⟨-, rfl⟩ := ifEnabled_next h
    exact absurd rfl hne
  | reset => exact .inl rfl

end Answering

/-- Settles O30: the three cases of `fvTxByte`. -/
theorem fvTxSendsTheAnswer : Obligations.FvTxSendsTheAnswer := by
  intro s hready hp
  refine ⟨_, exec_fvTx_eq hp, ?_⟩
  split_ifs with hport hstatus
  · rw [fvTxByte_of_portQuery hport]
    exact onlyAnswers_respond hready
  · rw [fvTxByte_of_statusQuery hstatus]
    exact onlyAnswers_respond hready
  · rw [fvTxByte_of_no_query hport hstatus]
    exact onlyAnswers_respond hready

/-- Settles O31: the three cases of `fvTransfer`. -/
theorem fvXferEndsTheFrame : Obligations.FvXferEndsTheFrame := by
  intro s hready hp
  split_ifs with hbad hidle
  · exact fvXfer_onlyParser hready hp (fvTransfer_of_badFrame hbad)
  · exact fvXfer_onlyParser hready hp (fvTransfer_of_idle hidle)
  · exact fvXfer_onlyParser hready hp (fvTransfer_of_cut hbad hidle)

/-- Settles O29: in BAD_FRAME a received byte has no effect, and every other input but RESET and FV_XFER leaves the
parser alone. -/
theorem onlyTransferLeavesBadFrame : Obligations.OnlyTransferLeavesBadFrame := by
  refine ⟨fun s b hready hp hst => ?_, fun s t hst hstep hne => ?_⟩
  · exact ⟨_, (exec_fvRx_eq hp b).trans (by rw [fvReceive_of_badFrame hst]), onlyAnswers_respond hready⟩
  · obtain ⟨hw, ⟨-, rfl⟩ | ⟨x, rest, hinbox, hreact⟩⟩ := step_next_cases hstep
    · exact absurd hst hne
    · rw [hinbox, List.head?_cons, Option.some_inj, Option.some_inj, Option.some_inj]
      exact react_leaves_badFrame (s := s.withInbox rest) hw hst hreact fun hfv => hne (hfv ▸ hst)

/-! ### A whole good frame (R224)

The bytes of a frame are received one after the other. `AwaitsData` says where the parser stands after the port byte
and some of the data bytes; each data byte carries it on, and the checksum byte commits what has been stored. -/

section OnlyParser

variable {s t u : State}

theorem onlyParser_iff : OnlyParser s t ↔ ∃ fv result, t = (s.withFv fv).withResult result :=
  ⟨fun h => ⟨_, _, h⟩, fun ⟨_, _, h⟩ => h ▸ rfl⟩

theorem OnlyParser.trans (hst : OnlyParser s t) (htu : OnlyParser t u) : OnlyParser s u := by
  obtain ⟨_, _, rfl⟩ := onlyParser_iff.1 hst
  obtain ⟨_, _, rfl⟩ := onlyParser_iff.1 htu
  rfl

theorem OnlyParser.cfg (h : OnlyParser s t) : t.cfg = s.cfg := by
  obtain ⟨_, _, rfl⟩ := onlyParser_iff.1 h
  rfl

theorem OnlyParser.svcAt (h : OnlyParser s t) (i : Nat) : svcAt t i = svcAt s i := by
  obtain ⟨_, _, rfl⟩ := onlyParser_iff.1 h
  rfl

end OnlyParser

section Frame

variable {s t : State} {b port : Byte} {i : Nat} {head sent rest bs : List Byte}

/-- The state after FV_RX has taken a byte and answered. -/
def afterRx (s : State) (b : Byte) : State := respond .ok 0#16 (fvReceive b s)

theorem afterRx_onlyParser {fv : Fv} (h : fvReceive b s = s.withFv fv) :
    OnlyParser s (afterRx s b) ∧ (afterRx s b).fv = fv := by
  rw [afterRx, h]
  exact ⟨rfl, rfl⟩

/-- The bytes taken one after the other are a fold of `afterRx`. -/
theorem execAll_fvRx (hp : s.port = .transport) (bs : List Byte) :
    execAll (bs.map .fvRx) s = .next (bs.foldl afterRx s) := by
  induction bs generalizing s with
  | nil => rfl
  | cons b bs ih =>
    rw [List.map_cons, execAll, exec_fvRx_eq hp]
    exact ih ((fvReceive_port b s).trans hp)

/-- The parser has taken the header, Length and port bytes `head` of a frame to port index `i` and the data bytes
`sent`; the data bytes `rest` and the checksum are to come. -/
structure AwaitsData (s : State) (head : List Byte) (i : Nat) (sent rest : List Byte) (t : State) : Prop where
  frame : OnlyParser s t
  st : t.fv.st = if rest = [] then .checksum else .data
  pidx : t.fv.pidx.toNat = i
  len : t.fv.len.toNat = sent.length + rest.length + 1
  cnt : t.fv.cnt.toNat = sent.length
  crc : t.fv.crc = crc8 (head ++ sent)
  stored : (List.range sent.length).map (fbufRead t) = sent

/-- A data byte is stored after the ones before it, and the parser moves to CHECKSUM with the last (R217). -/
theorem AwaitsData.data (h : AwaitsData s head i sent (b :: rest) t) :
    AwaitsData s head i (sent ++ [b]) rest (afterRx t b) := by
  obtain ⟨hframe, hst, hpidx, hlen, hcnt, hcrc, hstored⟩ := h
  rw [if_neg (List.cons_ne_nil b rest)] at hst
  rw [List.length_cons] at hlen
  have hbound := t.fv.len.isLt
  have hcnt' : (t.fv.cnt + 1#8).toNat = sent.length + 1 := by bv_omega
  have hlast : t.fv.cnt + 1#8 = t.fv.len - 1#8 ↔ rest = [] := by
    rw [← List.length_eq_zero_iff]
    bv_omega
  have hrx : afterRx t b = respond .ok 0#16 (rxData b t) := by rw [afterRx, fvReceive_of_data hst]
  rw [hrx]
  refine ⟨hframe.trans rfl, ?_, hpidx, ?_, ?_, ?_, ?_⟩
  · simp only [respond_fv, rxData_of_data hst, withFv_fv, hlast]
  · rw [List.length_append, List.length_singleton]
    exact hlen.trans (by omega)
  · rw [List.length_append, List.length_singleton]
    exact hcnt'
  · rw [← List.append_assoc, crc8_concat, ← hcrc]
    rfl
  · have hbefore : ∀ j ∈ List.range sent.length, fbufRead (rxData b t) j = fbufRead t j := fun j hj => by
      rw [fbufRead_rxData, hcnt, if_neg (List.mem_range.1 hj).ne]
    rw [List.length_append, List.length_singleton, List.range_succ, List.map_append, List.map_singleton]
    simp only [fbufRead_respond]
    rw [List.map_congr_left (f := fbufRead (respond _ _ _)) hbefore, hstored, fbufRead_rxData, if_pos hcnt.symm]

/-- The data bytes are taken one by one, whatever their number. -/
theorem AwaitsData.all_data (h : AwaitsData s head i sent rest t) :
    AwaitsData s head i (sent ++ rest) [] (rest.foldl afterRx t) := by
  induction rest generalizing sent t with
  | nil => rwa [List.append_nil]
  | cons b rest ih =>
    rw [List.append_cons]
    exact ih h.data

/-- Service port `i`, with ID `port`, takes a frame of these data bytes: the frame is not too long, and the port is
registered with this many parameters. -/
structure Takes (s : State) (port : Byte) (i : Nat) (bs : List Byte) : Prop where
  index : svcIndex s.cfg port = some i
  reg : (svcAt s i).reg = true
  plen : (svcAt s i).plen.toNat = bs.length
  fits : bs.length + 1 ≤ s.cfg.maxLen.toNat

/-- The Length byte of a frame counts its port byte and its data bytes (R211). -/
def frameLength (bs : List Byte) : Byte := BitVec.ofNat 8 (bs.length + 1)

/-- The bytes of a frame before its data: header, Length and port ID (R211). -/
def frameHead (s : State) (port : Byte) (bs : List Byte) : List Byte := [s.cfg.svcHeader, frameLength bs, port]

theorem Takes.toNat_frameLength (h : Takes s port i bs) : (frameLength bs).toNat = bs.length + 1 := by
  have := h.fits
  have := s.cfg.maxLen.isLt
  rw [frameLength, BitVec.toNat_ofNat, Nat.mod_eq_of_lt (by omega)]

theorem Takes.frameLength_legal (h : Takes s port i bs) :
    ¬ (frameLength bs = 0#8 ∨ s.cfg.maxLen.toNat < (frameLength bs).toNat) := by
  have hlen := h.toNat_frameLength
  have := h.fits
  exact not_or.2 ⟨by bv_omega, by omega⟩

theorem Takes.plen_eq (h : Takes s port i bs) : (svcAt s i).plen = frameLength bs - 1#8 := by
  have hlen := h.toNat_frameLength
  have := h.plen
  bv_omega

theorem Takes.frameLength_eq_one_iff (h : Takes s port i bs) : frameLength bs = 1#8 ↔ bs = [] := by
  have hlen := h.toNat_frameLength
  rw [← List.length_eq_zero_iff]
  bv_omega

/-- The header, the Length and the port byte of a good frame are accepted (R214 to R216). -/
theorem awaitsData_of_head (hw : s.cfg.wf = true) (hst : s.fv.st = .header) (h : Takes s port i bs) :
    AwaitsData s (frameHead s port bs) i [] bs ((frameHead s port bs).foldl afterRx s) := by
  unfold frameHead
  have hheader := (fvReceive_of_header (.inl hst)).trans (rxHeader_of_svcHeader (s := s) rfl)
  obtain ⟨hframe₁, hfv₁⟩ := afterRx_onlyParser hheader
  rw [List.foldl_cons]
  generalize afterRx s s.cfg.svcHeader = t₁ at *
  have hlength := (fvReceive_of_length (s := t₁) (hfv₁ ▸ rfl)).trans
    (rxLength_of_legal (hframe₁.cfg ▸ h.frameLength_legal))
  obtain ⟨hframe₂, hfv₂⟩ := afterRx_onlyParser hlength
  rw [List.foldl_cons]
  generalize afterRx t₁ (frameLength bs) = t₂ at *
  replace hframe₂ := hframe₁.trans hframe₂
  have hport := (fvReceive_of_port (s := t₂) (hfv₂ ▸ rfl)).trans
    (rxPort_of_match (hframe₂.cfg ▸ h.index) (by simp [hframe₂.svcAt, h.reg])
      (by rw [hframe₂.svcAt, hfv₂]; exact h.plen_eq))
  obtain ⟨hframe₃, hfv₃⟩ := afterRx_onlyParser hport
  rw [List.foldl_cons, List.foldl_nil]
  generalize afterRx t₂ port = t₃ at *
  replace hframe₃ := hframe₂.trans hframe₃
  rw [hfv₂, hfv₁] at hfv₃
  refine ⟨hframe₃, ?_, ?_, ?_, ?_, ?_, rfl⟩
  · simp only [hfv₃, h.frameLength_eq_one_iff]
  · rw [hfv₃]
    exact toNat_svcIndex hw h.index
  · rw [hfv₃]
    exact h.toNat_frameLength.trans (by simp)
  · rw [hfv₃]
    rfl
  · rw [hfv₃]
    rfl

/-- The checksum byte of a good frame commits its data bytes (R218, R220). -/
theorem AwaitsData.checksum (h : AwaitsData s head i bs [] t) (htakes : Takes s port i bs)
    (hfree : (svcAt s i).pending = false) : afterRx t (crc8 (head ++ bs)) = respond .ok 0#16 (committed t) := by
  obtain ⟨hframe, hst, rfl, hlen, -, hcrc, -⟩ := h
  obtain ⟨-, hreg, hplen, -⟩ := htakes
  rw [← hframe.svcAt] at hreg hplen hfree
  have hmatch : (svcAt t t.fv.pidx.toNat).plen = t.fv.len - 1#8 := by
    rw [List.length_nil] at hlen
    bv_omega
  rw [afterRx, fvReceive_of_checksum hst, rxChecksum_of_right hcrc.symm,
    fvCommit_of_free (by simp [hreg]) hmatch (by simp [hfree])]

/-- A committed frame changes of its port the first parameters, which become the data bytes, and `pending`. -/
theorem AwaitsData.svcAt_committed (h : AwaitsData s head i bs [] t) (hi : i < t.svc.length) :
    svcAt (committed t) i =
      { svcAt s i with param := bs ++ (svcAt s i).param.drop bs.length, pending := true } := by
  obtain ⟨hframe, -, rfl, hlen, -, -, hstored⟩ := h
  have hcount : (t.fv.len - 1#8).toNat = bs.length := by
    rw [List.length_nil] at hlen
    bv_omega
  rw [svcAt_committed_self hi, hframe.svcAt, hcount, commitParam, hstored]

end Frame

/-- Settles O34: the head of the frame, its data bytes and its checksum, one lemma each; the commit writes port `i`
alone. -/
theorem goodFrameIsAccepted : Obligations.GoodFrameIsAccepted := by
  intro s port i bs hready hp hst hi hport hreg hfree hplen hfits body
  have htakes : Takes s port i bs := ⟨svcIndex_of_toNat hi hport, hreg, hplen, hfits⟩
  have hdata := (awaitsData_of_head hready.1 hst htakes).all_data
  rw [List.nil_append, ← List.foldl_append] at hdata
  have hbody : body = frameHead s port bs ++ bs := rfl
  refine ⟨_, execAll_fvRx hp _, ?_⟩
  rw [hbody, List.foldl_append (l := _ ++ bs), List.foldl_cons, List.foldl_nil,
    hdata.checksum htakes hfree]
  obtain ⟨fv, result, ht⟩ := onlyParser_iff.1 hdata.frame
  generalize List.foldl afterRx s _ = t at *
  subst ht
  have hentry := hdata.svcAt_committed (lt_svc_length (s := s) hready hi)
  rw [svcAt_respond, hentry, List.take_left]
  refine ⟨rfl, rfl, rfl, hreg, rfl, rfl, rfl, fun j hne => ?_, rfl, rfl, rfl, rfl⟩
  exact svcAt_committed_of_ne (hdata.pidx.symm ▸ hne)

end Sys2Proof.Machine

/-! ## The control and status registers

Settled here: O45, O46 and O47. First which numbers have a value, as one equation of `csrValue`; then the bits of each
register; then the equations of CSR_READ and CSR_WRITE on HOST. -/

namespace Sys2Proof.Machine

section CsrMap

variable {s : State} {n k : Nat} {v : Half}

/-! ### The CSR map (R250, R252) -/

/-- The CSRs every configuration has. -/
def coreCsrs : List Nat := [0x00, 0x01, 0x02, 0x03, 0x40, 0x41, 0x42, 0x43]

/-- The CSRs of the timer. -/
def timerCsrs : List Nat := [0x30, 0x31, 0x32]

/-- The CSRs of the scheduler. -/
def schedCsrs : List Nat := [0x50, 0x51, 0x52]

/-- The numbers of R252 whose unit the configuration has, in the words of the statement. -/
def InCsrMap (c : Cfg) (n : Nat) : Prop :=
  n ∈ coreCsrs ∨ (c.hasTimer = true ∧ n ∈ timerCsrs) ∨ (c.hasSched = true ∧ n ∈ schedCsrs) ∨
    (0x10 ≤ n ∧ n < 0x10 + c.rbCount) ∨ (0x20 ≤ n ∧ n < 0x20 + c.rbCount)

theorem ifPresent_of_present {present : Bool} (h : present = true) : ifPresent present v = some v := if_pos h

@[simp] theorem isSome_ifPresent (present : Bool) (v : Half) : (ifPresent present v).isSome = present := by
  cases present <;> rfl

theorem isSome_csrValue_of_core (h : n ∈ coreCsrs) : (csrValue s n).isSome = true := by
  simp only [coreCsrs, List.mem_cons, List.not_mem_nil, or_false] at h
  obtain rfl | rfl | rfl | rfl | rfl | rfl | rfl | rfl := h <;> rfl

theorem isSome_csrValue_of_timer (h : n ∈ timerCsrs) : (csrValue s n).isSome = s.cfg.hasTimer := by
  simp only [timerCsrs, List.mem_cons, List.not_mem_nil, or_false] at h
  obtain rfl | rfl | rfl := h <;> exact isSome_ifPresent ..

theorem isSome_csrValue_of_sched (h : n ∈ schedCsrs) : (csrValue s n).isSome = s.cfg.hasSched := by
  simp only [schedCsrs, List.mem_cons, List.not_mem_nil, or_false] at h
  obtain rfl | rfl | rfl := h <;> exact isSome_ifPresent ..

/-- A number of none of the three lists is RBCFG or RBSTAT of a ring, or no CSR. -/
theorem csrValue_of_not_mem (hcore : n ∉ coreCsrs) (htimer : n ∉ timerCsrs) (hsched : n ∉ schedCsrs) :
    csrValue s n =
      if 0x10 ≤ n ∧ n < 0x20 then ifPresent (decide (n - 0x10 < s.cfg.rbCount)) (csrRbcfg (s.cfg.ring (n - 0x10)))
      else if 0x20 ≤ n ∧ n < 0x30 then ifPresent (decide (n - 0x20 < s.cfg.rbCount)) (csrRbstat s (n - 0x20))
      else none := by
  unfold csrValue
  split
  case h_15 => rfl
  all_goals simp [coreCsrs, timerCsrs, schedCsrs] at hcore htimer hsched

theorem isSome_csrValue (s : State) (n : Nat) :
    (csrValue s n).isSome =
      if n ∈ coreCsrs then true
      else if n ∈ timerCsrs then s.cfg.hasTimer
      else if n ∈ schedCsrs then s.cfg.hasSched
      else if 0x10 ≤ n ∧ n < 0x20 then decide (n - 0x10 < s.cfg.rbCount)
      else if 0x20 ≤ n ∧ n < 0x30 then decide (n - 0x20 < s.cfg.rbCount)
      else false := by
  split_ifs with hcore htimer hsched hcfg hstat
  · exact isSome_csrValue_of_core hcore
  · exact isSome_csrValue_of_timer htimer
  · exact isSome_csrValue_of_sched hsched
  · rw [csrValue_of_not_mem hcore htimer hsched, if_pos hcfg, isSome_ifPresent]
  · rw [csrValue_of_not_mem hcore htimer hsched, if_neg hcfg, if_pos hstat, isSome_ifPresent]
  · rw [csrValue_of_not_mem hcore htimer hsched, if_neg hcfg, if_neg hstat, Option.isSome_none]

/-- At most 16 rings keep the two ranges of ring CSRs apart and below the timer's. -/
theorem isSome_csrValue_iff (hrings : s.cfg.rbCount ≤ 16) :
    (csrValue s n).isSome = true ↔ InCsrMap s.cfg n := by
  rw [isSome_csrValue, InCsrMap]
  simp only [coreCsrs, timerCsrs, schedCsrs, List.mem_cons, List.not_mem_nil, or_false]
  grind

theorem not_mem_unitCsrs_of_ring (hlo : 0x10 ≤ n) (hhi : n < 0x30) :
    n ∉ coreCsrs ∧ n ∉ timerCsrs ∧ n ∉ schedCsrs := by
  simp only [coreCsrs, timerCsrs, schedCsrs, List.mem_cons, List.not_mem_nil, or_false]
  omega

theorem csrValue_rbcfg (hk : k < s.cfg.rbCount) (hrings : s.cfg.rbCount ≤ 16) :
    csrValue s (0x10 + k) = some (csrRbcfg (s.cfg.ring k)) := by
  obtain ⟨hcore, htimer, hsched⟩ := not_mem_unitCsrs_of_ring (n := 0x10 + k) (by omega) (by omega)
  rw [csrValue_of_not_mem hcore htimer hsched, if_pos (by omega), Nat.add_sub_cancel_left,
    ifPresent_of_present (decide_eq_true hk)]

theorem csrValue_rbstat (hk : k < s.cfg.rbCount) (hrings : s.cfg.rbCount ≤ 16) :
    csrValue s (0x20 + k) = some (csrRbstat s k) := by
  obtain ⟨hcore, htimer, hsched⟩ := not_mem_unitCsrs_of_ring (n := 0x20 + k) (by omega) (by omega)
  rw [csrValue_of_not_mem hcore htimer hsched, if_neg (by omega), if_pos (by omega), Nat.add_sub_cancel_left,
    ifPresent_of_present (decide_eq_true hk)]

theorem csrValue_timer (h : s.cfg.hasTimer = true) :
    csrValue s 0x30 = some (csrTmrctrl s) ∧ csrValue s 0x31 = some s.tmr.reload ∧
      csrValue s 0x32 = some s.tmr.count :=
  ⟨ifPresent_of_present h, ifPresent_of_present h, ifPresent_of_present h⟩

theorem csrValue_sched (h : s.cfg.hasSched = true) :
    csrValue s 0x50 = some (csrSchocc s) ∧ csrValue s 0x51 = some (csrSchdue s) ∧
      csrValue s 0x52 = some (csrSchstat s) :=
  ⟨ifPresent_of_present h, ifPresent_of_present h, ifPresent_of_present h⟩

end CsrMap

section CsrFields

variable {c : Cfg} {s : State} {n i j k : Nat} {p : Nat → Bool}

/-! ### The counts of a legal configuration fit their fields (R7, R253, R254, R260) -/

theorem ring_mem_rings (hk : k < c.rbCount) : c.ring k ∈ c.rings := by
  rw [Cfg.ring, ← List.getElem_eq_getD (h := hk)]
  exact List.getElem_mem hk

theorem rbCount_le (h : c.wf = true) : c.rbCount ≤ 16 := by
  obtain ⟨hrings, -⟩ := cfg_wf_iff.1 h
  exact (ringsOk_iff.1 hrings).2.1

theorem ring_aw_le (h : c.wf = true) (hk : k < c.rbCount) : (c.ring k).aw ≤ 15 := by
  obtain ⟨hrings, -⟩ := cfg_wf_iff.1 h
  exact (ringsOk_iff.1 hrings).2.2 _ (ring_mem_rings hk)

theorem slotCount_le (h : c.wf = true) : c.slotCount ≤ 16 := by
  rw [Cfg.slotCount]
  split
  next hs => exact nslots_le h hs
  next => exact Nat.zero_le _

/-! ### The bits of each register (R253 to R264)

A register is fields side by side, and each field is read by its place among them; a flag is a field of one bit. -/

section Places

variable {k l m n i start len : Nat}

theorem extractLsb'_append_second (x : BitVec k) (y : BitVec l) (z : BitVec m) :
    (x ++ y ++ z).extractLsb' m l = y := by
  rw [BitVec.extractLsb'_append_eq_of_le le_rfl, Nat.sub_self, BitVec.extractLsb'_append_eq_right]

theorem extractLsb'_append_top_of_three (x : BitVec k) (y : BitVec l) (z : BitVec m) :
    (x ++ y ++ z).extractLsb' (l + m) k = x := by
  rw [BitVec.extractLsb'_append_eq_of_le (Nat.le_add_left ..), Nat.add_sub_cancel, BitVec.extractLsb'_append_eq_left]

theorem extractLsb'_append_above_three (x : BitVec k) (y : BitVec l) (z : BitVec m) (t : BitVec n) :
    (x ++ y ++ z ++ t).extractLsb' (l + m + n + start) len = x.extractLsb' start len := by
  rw [BitVec.extractLsb'_append_eq_of_le (by omega), BitVec.extractLsb'_append_eq_of_le (by omega),
    BitVec.extractLsb'_append_eq_of_le (by omega)]
  congr 1
  omega

theorem getLsbD_of_extractLsb'_eq_ofBool {v : BitVec n} {b : Bool} (h : v.extractLsb' i 1 = BitVec.ofBool b) :
    v.getLsbD i = b := by
  have hbit := congrArg (BitVec.getLsbD · 0) h
  simpa using hbit

end Places

/-- The six fields of CFG0 are its three low ones under a part of three more. -/
theorem csrCfg0_high_fields (c : Cfg) :
    (csrCfg0 c).extractLsb' 7 1 = 0#1 ∧ (csrCfg0 c).extractLsb' 8 5 = BitVec.ofNat 5 c.slotCount ∧
      (csrCfg0 c).extractLsb' 13 3 = 0#3 := by
  have hhigh (start len : Nat) :
      (csrCfg0 c).extractLsb' (7 + start) len =
        (0#3 ++ BitVec.ofNat 5 c.slotCount ++ 0#1).extractLsb' start len := extractLsb'_append_above_three ..
  exact ⟨(hhigh 0 1).trans BitVec.extractLsb'_append_eq_right, (hhigh 1 5).trans (extractLsb'_append_second ..),
    (hhigh 6 3).trans (extractLsb'_append_top_of_three ..)⟩

theorem csrCfg0_fields (h : c.wf = true) :
    ((csrCfg0 c).extractLsb' 0 5).toNat = c.rbCount ∧ (csrCfg0 c).getLsbD 5 = c.hasSched ∧
      (csrCfg0 c).getLsbD 6 = c.hasTimer ∧ (csrCfg0 c).getLsbD 7 = false ∧
      ((csrCfg0 c).extractLsb' 8 5).toNat = c.slotCount ∧ (csrCfg0 c).extractLsb' 13 3 = 0#3 := by
  have hrings := rbCount_le h
  have hslots := slotCount_le h
  have hcount : (csrCfg0 c).extractLsb' 0 5 = BitVec.ofNat 5 c.rbCount := BitVec.extractLsb'_append_eq_right
  obtain ⟨hunused, hslot, htop⟩ := csrCfg0_high_fields c
  refine ⟨?_, getLsbD_of_extractLsb'_eq_ofBool (extractLsb'_field_three ..),
    getLsbD_of_extractLsb'_eq_ofBool (extractLsb'_field_two ..), getLsbD_of_extractLsb'_eq_ofBool hunused, ?_, htop⟩
  · rw [hcount, BitVec.toNat_ofNat, Nat.mod_eq_of_lt (by omega)]
  · rw [hslot, BitVec.toNat_ofNat, Nat.mod_eq_of_lt (by omega)]

theorem csrCfg1_fields (h : c.wf = true) :
    (csrCfg1 c).extractLsb' 0 8 = c.portBase ∧ ((csrCfg1 c).extractLsb' 8 5).toNat = c.portCount ∧
      (csrCfg1 c).extractLsb' 13 3 = 0#3 := by
  have hcount : (csrCfg1 c).extractLsb' 8 5 = BitVec.ofNat 5 c.portCount := extractLsb'_append_second ..
  have hle := portCount_le h
  refine ⟨BitVec.extractLsb'_append_eq_right, ?_, extractLsb'_append_top_of_three ..⟩
  rw [hcount, BitVec.toNat_ofNat, Nat.mod_eq_of_lt (by omega)]

theorem csrRbcfg_fields {r : RingCfg} (h : r.aw ≤ 15) :
    ((csrRbcfg r).extractLsb' 0 4).toNat = r.aw ∧ (csrRbcfg r).getLsbD 4 = decide (r.width = .w16) ∧
      (csrRbcfg r).getLsbD 5 = decide (r.clocking = .async) ∧ (csrRbcfg r).extractLsb' 6 10 = 0#10 := by
  have haw : (csrRbcfg r).extractLsb' 0 4 = BitVec.ofNat 4 r.aw := BitVec.extractLsb'_append_eq_right
  refine ⟨?_, getLsbD_of_extractLsb'_eq_ofBool (extractLsb'_field_three ..),
    getLsbD_of_extractLsb'_eq_ofBool (extractLsb'_field_two ..), extractLsb'_field_one ..⟩
  rw [haw, BitVec.toNat_ofNat, Nat.mod_eq_of_lt (by omega)]

theorem csrRbstat_fields (s : State) (k : Nat) :
    (csrRbstat s k).getLsbD 0 = emptyC s k ∧ (csrRbstat s k).getLsbD 1 = fullP s k ∧
      (csrRbstat s k).extractLsb' 2 14 = 0#14 :=
  ⟨getLsbD_of_extractLsb'_eq_ofBool BitVec.extractLsb'_append_eq_right,
    getLsbD_of_extractLsb'_eq_ofBool (extractLsb'_append_second ..), extractLsb'_append_top_of_three ..⟩

theorem csrTmrctrl_fields (s : State) :
    (csrTmrctrl s).getLsbD 0 = s.tmr.en ∧ (csrTmrctrl s).extractLsb' 1 15 = 0#15 :=
  ⟨getLsbD_of_extractLsb'_eq_ofBool BitVec.extractLsb'_append_eq_right, BitVec.extractLsb'_append_eq_left⟩

theorem csrFvstat_fields (s : State) :
    (csrFvstat s).extractLsb' 0 8 = s.fv.fstatus ∧ (csrFvstat s).extractLsb' 8 3 = pstateCode s.fv.st ∧
      (csrFvstat s).extractLsb' 11 4 = s.fv.qport ∧ (csrFvstat s).getLsbD 15 = false :=
  ⟨BitVec.extractLsb'_append_eq_right, extractLsb'_field_three .., extractLsb'_field_two ..,
    getLsbD_of_extractLsb'_eq_ofBool (extractLsb'_field_one ..)⟩

theorem csrSchstat_fields (s : State) :
    (csrSchstat s).extractLsb' 0 5 = s.sch.sp ∧ (csrSchstat s).extractLsb' 5 4 = s.sch.ifslot ∧
      (csrSchstat s).getLsbD 9 = s.sch.inflight ∧ (csrSchstat s).extractLsb' 10 6 = 0#6 :=
  ⟨BitVec.extractLsb'_append_eq_right, extractLsb'_field_three ..,
    getLsbD_of_extractLsb'_eq_ofBool (extractLsb'_field_two ..), extractLsb'_field_one ..⟩

theorem bitmap_getLsbD_of_lt (hi : i < 16) : (bitmap n p).getLsbD i = (decide (i < n) && p i) := by
  rw [bitmap_getLsbD, decide_eq_true hi, Bool.true_and]

theorem csrSchdue_bit (hj : j < 16) :
    (csrSchdue s).getLsbD j =
      (decide (j < s.cfg.nslots) && (slotAt s j).occ && decide (0 < (slotAt s j).run.toNat)) := by
  rw [csrSchdue, bitmap_getLsbD_of_lt hj, due, Bool.and_assoc]

end CsrFields

section CsrCommands

variable {s : State} {n : Byte} {v : Half}

/-! ### The commands on HOST (R250, R251) -/

theorem exec_csrRead_of_none (hp : s.port = .host) (hv : csrValue s n.toNat = none) :
    exec (.csrRead n) s = .next (fail .illegal s) := by
  refine (ifLegal_onHost hp _).trans ?_
  rw [hv]

theorem exec_csrRead_of_some (hp : s.port = .host) (hv : csrValue s n.toNat = some v) :
    exec (.csrRead n) s = .next (respond .ok v s) := by
  refine (ifLegal_onHost hp _).trans ?_
  rw [hv]

theorem exec_csrWrite_eq (hp : s.port = .host) (n : Byte) (v : Half) :
    exec (.csrWrite n v) s =
      .next
        (if n = 0x30#8 ∧ s.cfg.hasTimer = true then respond .ok 0#16 (writeTmrctrl v s)
        else if n = 0x31#8 ∧ s.cfg.hasTimer = true then respond .ok 0#16 (writeTmrreload v s)
        else fail .illegal s) := ifLegal_onHost hp _

end CsrCommands

/-- Settles O47, by the equation of CSR_WRITE. -/
theorem csrWriteSetsTheTimer : Obligations.CsrWriteSetsTheTimer := by
  intro s n v hready hp
  refine ⟨_, exec_csrWrite_eq hp n v, ?_⟩
  split
  · exact ⟨answers_respond hready rfl rfl, rfl, rfl, rfl, rfl⟩
  · split
    · exact ⟨answers_respond hready rfl rfl, rfl⟩
    · exact onlyAnswers_fail hready

/-- Settles O45: a number has a value exactly when it is in the map (`isSome_csrValue_iff`). -/
theorem csrReadAnswersTheMap : Obligations.CsrReadAnswersTheMap := by
  intro s n hready hp
  have hmap : (csrValue s n.toNat).isSome = true ↔ InCsrMap s.cfg n.toNat :=
    isSome_csrValue_iff (rbCount_le hready.1)
  cases hv : csrValue s n.toNat with
  | none =>
    have hout : ¬ InCsrMap s.cfg n.toNat := by simpa [hv] using hmap
    exact ⟨_, exec_csrRead_of_none hp hv, (if_neg hout).mpr (onlyAnswers_fail hready)⟩
  | some v =>
    have hin : InCsrMap s.cfg n.toNat := by simpa [hv] using hmap
    exact ⟨_, exec_csrRead_of_some hp hv, (if_pos hin).mpr ⟨v, rfl, onlyAnswers_respond hready⟩⟩

/-- Settles O46, one register after the other, by the lemma about its bits. -/
theorem csrFieldsAreInPlace : Obligations.CsrFieldsAreInPlace := by
  intro s k hw hk
  have hrings := rbCount_le hw
  refine ⟨⟨_, rfl, csrCfg0_fields hw⟩, ⟨_, rfl, csrCfg1_fields hw⟩,
    ⟨_, rfl, BitVec.extractLsb'_append_eq_right, BitVec.extractLsb'_append_eq_left⟩,
    ⟨_, rfl, BitVec.extractLsb'_append_eq_right, BitVec.extractLsb'_append_eq_left⟩,
    ⟨_, csrValue_rbcfg hk hrings, csrRbcfg_fields (ring_aw_le hw hk)⟩,
    ⟨_, csrValue_rbstat hk hrings, csrRbstat_fields s k⟩, fun htimer => ?_, ⟨_, rfl, csrFvstat_fields s⟩,
    ⟨_, rfl, fun i hi => bitmap_getLsbD_of_lt hi⟩, ⟨_, rfl, fun i hi => bitmap_getLsbD_of_lt hi⟩,
    ⟨_, rfl, BitVec.extractLsb'_append_eq_right, BitVec.extractLsb'_append_eq_left⟩, fun hsched => ?_⟩
  · obtain ⟨hctrl, hreload, hcount⟩ := csrValue_timer htimer
    exact ⟨⟨_, hctrl, csrTmrctrl_fields s⟩, hreload, hcount⟩
  · obtain ⟨hocc, hdue, hstat⟩ := csrValue_sched hsched
    exact ⟨⟨_, hocc, fun j hj => bitmap_getLsbD_of_lt hj⟩, ⟨_, hdue, fun j hj => csrSchdue_bit hj⟩,
      ⟨_, hstat, csrSchstat_fields s⟩⟩

end Sys2Proof.Machine

/-! ## RESET

Settled here: O53 and O49. Each unit's part of the reset state has its lemma with that unit's step lemma above
(`shaped_resetOf`, `ringAt_resetOf`, `svcAt_resetOf`, `slotAt_resetOf` and the `…Ok_resetOf`); what is missing is the
parameter bytes, the RESULT registers and the step that takes RESET. -/

namespace Sys2Proof.Machine

/-! ### The reset state of a configuration (R300) -/

section ResetState

variable (c : Cfg)

theorem svcPort_reset_param (j : Nat) : (SvcPort.reset c).param.getD j 0#8 = 0#8 := by
  rw [List.getD_eq_getElem?_getD]
  exact List.getElem?_getD_replicate_default_eq _ _ j

theorem resultAt_resetOf (p : Port) : resultAt (State.resetOf c) p = 0#32 := by
  rw [resultAt, List.getD_eq_getElem?_getD]
  exact List.getElem?_getD_replicate_default_eq _ _ (portNumber p)

/-- The word 0 of a RESULT register after RESET reads as RC_OK with DATA 0 (R108). -/
theorem resultsOk_resetOf : ResultsOk (State.resetOf c) := by
  rw [resultsOk_iff]
  intro w hmem
  rw [List.eq_of_mem_replicate hmem]
  decide

end ResetState

/-- Settles O53: the conjuncts of the invariant, unit by unit. -/
theorem resetMeetsTheInvariant : Obligations.ResetMeetsTheInvariant := fun c hw =>
  ⟨hw, shaped_resetOf c, rfl, Memory_wf_resetOf c, ringsOk_resetOf c, servicesOk_resetOf c, parserOk_resetOf hw,
    schedulerOk_resetOf hw, resultsOk_resetOf c⟩

/-! ### What RESET does to a state (R300)

The block is in the reset state of its configuration but for the model's own fields inbox and epoch (log 4, log 9), which
none of the tables reads. -/

section ResetBlock

variable (s : State)

theorem shaped_resetBlock : Shaped (resetBlock s) := shaped_resetOf s.cfg

theorem ringAt_resetBlock (k : Nat) : ringAt (resetBlock s) k = Ring.reset := ringAt_resetOf s.cfg k

theorem svcAt_resetBlock (i : Nat) : svcAt (resetBlock s) i = SvcPort.reset s.cfg := svcAt_resetOf s.cfg i

theorem slotAt_resetBlock (j : Nat) : slotAt (resetBlock s) j = Slot.empty := slotAt_resetOf s.cfg j

theorem resultAt_resetBlock (p : Port) : resultAt (resetBlock s) p = 0#32 := resultAt_resetOf s.cfg p

end ResetBlock

/-- Settles O49: the step is `resetBlock`, whose tables are those of the reset state; the other fields are its own. -/
theorem resetSetsEveryField : Obligations.ResetSetsEveryField := by
  intro s rest hw hi
  refine ⟨resetBlock (s.withInbox rest), step_of_inbox hw hi, rfl, rfl, shaped_resetBlock _, fun k _ => ?rings,
    fun i _ => ?ports, rfl, ?parser, slotAt_resetBlock _, rfl, rfl, rfl, rfl, resultAt_resetBlock _⟩
  case rings =>
    rw [ringAt_resetBlock]
    exact ⟨rfl, rfl, rfl, rfl⟩
  case ports =>
    rw [svcAt_resetBlock]
    exact ⟨rfl, rfl, rfl, rfl, svcPort_reset_param s.cfg⟩
  case parser => exact ⟨rfl, rfl, rfl, rfl, rfl, rfl, rfl⟩

end Sys2Proof.Machine
